-- ==== Sys2Proof/Word.lean ====
section
/-! DEFINITION. The word types of the FSE interface (rule R9: bit 0 is the least significant bit). -/

namespace Sys2Proof

/-- A 32-bit host register or port value. -/
abbrev Word := BitVec 32

/-- A 16-bit control-port word, counter or table entry. -/
abbrev Half := BitVec 16

/-- A byte of host memory. -/
abbrev Byte := BitVec 8

end Sys2Proof
end

