-- ==== Sys2Proof/Config.lean ====
section
/-! DEFINITION. The configuration of rule R6 (fixed between two resets, written by no operation, rule R20), the reference
configuration of 95_test_vectors.md, and the free values the spec leaves open. -/

namespace Sys2Proof

/-- P_STD (R6, D41): the broadcast standard in use. -/
inductive Std where
  | ntsc
  | pal
deriving DecidableEq, Repr

/-- P_HSPLIT (R6, R128): into how many DMA bursts one strip is cut. -/
inductive Split where
  | one
  | two
  | three
deriving DecidableEq, Repr

/-- P_HPATH with P_HSPLIT (R6): the split exists exactly on the DMA path, which is condition W8 of rule R7. -/
inductive PalettePath where
  | cpu
  | dma (split : Split)
deriving DecidableEq, Repr

/-- P_DROP_POLICY (R6, R175): DROP or STEP. -/
inductive DropPolicy where
  | drop
  | step
deriving DecidableEq, Repr

/-- P_WIN_START and P_WIN_END of one standard (R6, R126): both bounds belong to the window. -/
structure Window where
  first : Half
  last : Half
deriving DecidableEq, Repr

/-- P_CRAM_CMD (R6, R88): the default formula, or any other total function of the 128 color-memory byte addresses and
the path flag, written out as one table of words for each path (log 17). -/
inductive CramCommand where
  | vdpDefault
  | listed (cpu dma : List Word)
deriving DecidableEq, Repr

/-- The parameters of rule R6, each under its own name. P_MAX_TICKS is derived (`Config.maxTicks`). -/
structure Config where
  /-- P_BASE: the host address of the 256-byte register window. -/
  base : BitVec 24
  /-- P_STD. -/
  std : Std
  /-- P_REFRESH[NTSC], in ticks per second. -/
  refreshNtsc : Nat
  /-- P_REFRESH[PAL], in ticks per second. -/
  refreshPal : Nat
  /-- P_TARGET_RATE (T), in frames per second. -/
  targetRate : Nat
  /-- P_NUM_FRAMES (NF). -/
  numFrames : Nat
  /-- P_RECIP_S. -/
  recipShift : Nat
  /-- P_RECIP_M. -/
  recipMul : Nat
  /-- P_HPATH and P_HSPLIT. -/
  path : PalettePath
  /-- P_PRELOAD. -/
  preload : Nat
  /-- P_NUM_STRIPS. -/
  numStrips : Nat
  /-- P_STRIP_STRIDE, in bytes. -/
  stripStride : Nat
  /-- P_STRIP_HEIGHT (H), in lines. -/
  stripHeight : Nat
  /-- P_LINE_OFFSET. -/
  lineOffset : Half
  /-- P_WIN_START[NTSC], P_WIN_END[NTSC]. -/
  windowNtsc : Window
  /-- P_WIN_START[PAL], P_WIN_END[PAL]. -/
  windowPal : Window
  /-- P_PAIR_ADDR[0], a color-memory byte address. -/
  pairAddr0 : Nat
  /-- P_PAIR_ADDR[1], a color-memory byte address. -/
  pairAddr1 : Nat
  /-- P_CRAM_CMD. -/
  cramCommand : CramCommand
  /-- P_DISP_OFF. -/
  dispOff : Half
  /-- P_DISP_ON. -/
  dispOn : Half
  /-- P_FLUSH_BLANK. -/
  flushBlank : Bool
  /-- P_FLUSH_BUDGET_BYTES. -/
  flushBudget : Word
  /-- P_DROP_POLICY. -/
  dropPolicy : DropPolicy
deriving DecidableEq, Repr

/-- R = P_REFRESH[P_STD] (42_frame_pacer.md). -/
def Config.refresh (c : Config) : Nat :=
  match c.std with
  | .ntsc => c.refreshNtsc
  | .pal => c.refreshPal

/-- The window constants of a standard (R126). -/
def Config.windowOf (c : Config) : Std → Window
  | .ntsc => c.windowNtsc
  | .pal => c.windowPal

/-- P_MAX_TICKS = ceil(NF * R / T) (R6, R156). -/
def Config.maxTicks (c : Config) : Nat :=
  (c.numFrames * c.refresh + c.targetRate - 1) / c.targetRate

/-- The size in bytes of one palette buffer, P_NUM_STRIPS * P_STRIP_STRIDE (R121). -/
def Config.bufferBytes (c : Config) : Nat :=
  c.numStrips * c.stripStride

/-- The reference configuration CFG-A of 95_test_vectors.md, with a register window at 0xA15000. The OPEN parameters of
R6 have no value in the spec's own configuration: these are the model's (DESIGN CHOICE, unsafe, log 2); the defaults from
general knowledge are log 18. -/
def Config.reference : Config where
  base := 0xA15000#24
  std := .ntsc
  refreshNtsc := 60
  refreshPal := 50
  targetRate := 15
  numFrames := 4
  recipShift := 24
  recipMul := 4194304
  path := .cpu
  preload := 1
  numStrips := 4
  stripStride := 16
  stripHeight := 8
  lineOffset := 0#16
  windowNtsc := ⟨7#16, 31#16⟩
  windowPal := ⟨7#16, 31#16⟩
  pairAddr0 := 0
  pairAddr1 := 64
  cramCommand := .vdpDefault
  dispOff := 0x8134#16
  dispOn := 0x8174#16
  flushBlank := true
  flushBudget := 4096#32
  dropPolicy := .drop

/-- FREE VALUE (log 9): what a racing read of one palette byte returns, "any value" by R64; the argument is the number of
the draw. -/
opaque Config.racingByte : Nat → Byte

/-- FREE VALUE (log 8): what a byte of host memory that nothing has stored to holds; the argument is its address. -/
opaque Config.unwrittenByte : Nat → Byte

/-- FREE VALUE (log 12): what an entry of the LUT holds before START has written it, "unspecified" by R36 and R230; the
argument is its index. -/
opaque Config.unspecifiedLutEntry : Nat → Half

end Sys2Proof
end

