-- ==== Sys2Proof/Syntax.lean ====
section
/-! DEFINITION. The instructions of the FSE: one constructor for each row of spec/opcode_table.json, and the signals
that carry them (30_encoding.md). -/

namespace Sys2Proof

/-- The three DMA slots, keyed by purpose (R39, R104). ENQ slot 3 does not exist: its word is illegal (R90). -/
inductive Slot where
  | tileset
  | tilemap
  | palette
deriving DecidableEq, Repr

/-- STRAT (R34): the four pacing strategies, in the order of their 2-bit code. -/
inductive Strategy where
  | exact
  | reciprocal
  | delta
  | table
deriving DecidableEq, Repr

/-- One port event of R45: (CTRL, 16, w), (CTRL, 32, w) or (DATA, 32, w). -/
inductive PortEvent where
  | ctrl16 (w : Half)
  | ctrl32 (w : Word)
  | data32 (w : Word)
deriving DecidableEq, Repr

/-- The rows of spec/opcode_table.json. -/
inductive Instr where
  /-- INTCTL g,v,h (R177). -/
  | intctl (g v h : Bool)
  /-- SEED (R121). -/
  | seed
  /-- ENQ s (R103). -/
  | enq (slot : Slot)
  /-- FLUSH (R106). -/
  | flush
  /-- SWAPREQ (R170). -/
  | swapreq
  /-- START k (R150). -/
  | start (strategy : Strategy)
  /-- PACE (R157). -/
  | pace
  /-- ADV (R174). -/
  | adv
  /-- ILLEGAL (R90): a command word that matches no row of R83. -/
  | illegal (word : Word)
  /-- The VINT pulse (R202). -/
  | vint
  /-- The HINT pulse (R203). -/
  | hint
  /-- out.LENL (R84): `len[7:0]`. -/
  | outLenl (field : Byte)
  /-- out.LENH (R84): `len[15:8]`. -/
  | outLenh (field : Byte)
  /-- out.ADDRL (R84): `addr[8:1]`. -/
  | outAddrl (field : Byte)
  /-- out.ADDRM (R84): `addr[16:9]`. -/
  | outAddrm (field : Byte)
  /-- out.ADDRH (R84): `addr[23:17]`. -/
  | outAddrh (field : BitVec 7)
  /-- out.TRIGGER (R85): the DEST word of a DmaOp. -/
  | outTrigger (dest : Word)
  /-- out.CRAMCMD (R88): P_CRAM_CMD of a color-memory byte address and a path flag. -/
  | outCramcmd (address : BitVec 7) (dma : Bool)
  /-- out.DISP_OFF (R86): P_DISP_OFF. -/
  | outDispOff
  /-- out.DISP_ON (R86): P_DISP_ON. -/
  | outDispOn
  /-- out.COLOR2 (R87): two colors, the one at the lower host address first. -/
  | outColor2 (first second : Half)
deriving DecidableEq, Repr

/-- What carries an instruction (the table's formats): a command word written to CMD (R80, R91), a pulse without
encoding (R94), or a word on a VDP port (R84 to R87). -/
inductive Signal where
  | cmd (w : Word)
  | vint
  | hint
  | port (e : PortEvent)
deriving DecidableEq, Repr

end Sys2Proof
end

