-- ==== Sys2Proof/WellFormed.lean ====
section
/-! DEFINITION. Well-formed configurations (rule R7: an ill-formed one is refused) and well-formed instructions (those
whose encoded word reads back as the same row of the opcode table). -/

namespace Sys2Proof

/-! ## Configurations -/

/-- The ranges of the type column of R6 that the Lean types leave open. The last line is DEDUCED (log 5): PA is an
8-bit register that holds a remainder modulo R (R35). -/
def Config.rangesOk (c : Config) : Bool :=
  decide (c.base.toNat % 256 = 0) && decide (c.recipShift ≤ 32) && decide (c.recipMul < 2 ^ 32)
    && decide (c.preload ≤ 2) && decide (1 ≤ c.numStrips ∧ c.numStrips ≤ 255)
    && decide (1 ≤ c.stripHeight ∧ c.stripHeight ≤ 255)
    && decide (c.refresh ≤ 256)

/-- P_CRAM_CMD is total on the color-memory byte addresses 0..127 (R88). -/
def Config.cramCommandTotal (c : Config) : Bool :=
  match c.cramCommand with
  | .vdpDefault => true
  | .listed cpu dma => decide (cpu.length = 128) && decide (dma.length = 128)

/-- W1 of R7: 1 <= T <= R. -/
def Config.w1 (c : Config) : Bool :=
  decide (1 ≤ c.targetRate) && decide (c.targetRate ≤ c.refresh)

/-- W2 of R7: 1 <= NF <= 65535, with the bound on P_MAX_TICKS that the rule draws from it. -/
def Config.w2 (c : Config) : Bool :=
  decide (1 ≤ c.numFrames) && decide (c.numFrames ≤ 65535) && decide (c.maxTicks ≤ 65535 * 60)

/-- W3 of R7: the reciprocal agrees with exact division at every supported tick. -/
def Config.w3 (c : Config) : Bool :=
  (List.range c.maxTicks).all fun t =>
    (t * c.recipMul) >>> c.recipShift == t * c.targetRate / c.refresh

/-- W4 of R7. -/
def Config.w4 (c : Config) : Bool :=
  decide (c.preload ≤ c.numStrips)

/-- J of W5: how often the line counter can be advanced from P_LINE_OFFSET without passing 65535. -/
def Config.lineSteps (c : Config) : Nat :=
  (65535 - c.lineOffset.toNat) / c.stripHeight

/-- The number of j in 1..J whose counter value P_LINE_OFFSET + j * H lies in the window of a standard (W5), from the
first and the last such j. Laws/WellFormed.lean proves it equal to the count over all j. -/
def Config.windowOpportunities (c : Config) (std : Std) : Nat :=
  let first := (c.windowOf std).first.toNat
  let last := (c.windowOf std).last.toNat
  let lo := (first - c.lineOffset.toNat + c.stripHeight - 1) / c.stripHeight
  let hi := (last - c.lineOffset.toNat) / c.stripHeight
  min c.lineSteps hi + 1 - max 1 lo

/-- W5 of R7 for one standard. -/
def Config.w5For (c : Config) (std : Std) : Bool :=
  decide ((c.windowOf std).first < (c.windowOf std).last)
    && decide (c.windowOpportunities std = c.numStrips - c.preload)

/-- W5 of R7, for each standard. -/
def Config.w5 (c : Config) : Bool :=
  c.w5For .ntsc && c.w5For .pal

/-- W6 of R7. -/
def Config.w6 (c : Config) : Bool :=
  decide (c.stripStride % 2 = 0) && decide (16 ≤ c.stripStride) && decide (c.bufferBytes ≤ 131072)

/-- W7 of R7: both pair addresses are even, at most 112, and at least 16 bytes apart. -/
def Config.w7 (c : Config) : Bool :=
  decide (c.pairAddr0 % 2 = 0) && decide (c.pairAddr1 % 2 = 0)
    && decide (c.pairAddr0 ≤ 112) && decide (c.pairAddr1 ≤ 112)
    && decide (c.pairAddr0 + 16 ≤ c.pairAddr1 ∨ c.pairAddr1 + 16 ≤ c.pairAddr0)

/-- R7: a configuration is well-formed only if all of W1 to W8 hold, its parameters lie in the ranges of R6, and
P_CRAM_CMD is total. W8 holds by the type `PalettePath`. -/
def Config.wf (c : Config) : Bool :=
  c.rangesOk && c.cramCommandTotal && c.w1 && c.w2 && c.w3 && c.w4 && c.w5 && c.w6 && c.w7

/-! ## Instructions -/

/-- One row of R83 as the opcode table gives it: a word belongs to the row when its masked bits match. -/
structure CommandRow where
  mask : Word
  bits : Word
deriving DecidableEq, Repr

/-- The eight rows of R83, in the table's order. -/
def commandRows : List CommandRow :=
  [⟨0xFFFFFFF8#32, 0x01000000#32⟩, ⟨0xFFFFFFFF#32, 0x02000000#32⟩, ⟨0xFFFFFFFC#32, 0x03000000#32⟩,
   ⟨0xFFFFFFFF#32, 0x04000000#32⟩, ⟨0xFFFFFFFF#32, 0x05000000#32⟩, ⟨0xFFFFFFFC#32, 0x06000000#32⟩,
   ⟨0xFFFFFFFF#32, 0x07000000#32⟩, ⟨0xFFFFFFFF#32, 0x08000000#32⟩]

/-- A word of one of the eight commands (R83): it matches a row, and it is not ENQ with slot 3 (R90). -/
def isCommandWord (w : Word) : Bool :=
  commandRows.any (fun r => w &&& r.mask == r.bits) && w != 0x03000003#32

/-- A 16-bit control-port word that is a DMA register word (R93): its high byte is 0x93 to 0x97, and bit 7 is zero
under 0x97. -/
def isDmaRegisterWord (w : Half) : Bool :=
  let high := w.extractLsb' 8 8
  high == 0x93#8 || high == 0x94#8 || high == 0x95#8 || high == 0x96#8
    || (high == 0x97#8 && w.extractLsb' 7 1 == 0#1)

/-- The encoded word of the instruction reads back as this row of the table: an ILLEGAL word is no command word (R90),
a display word is no DMA register word and not the other display word (R86, log 16), and CRAMCMD shares its words with
TRIGGER, whose row takes any 32-bit value (R85, R88, log 16). -/
def Instr.wf (c : Config) : Instr → Bool
  | .illegal w => !isCommandWord w
  | .outDispOff => !isDmaRegisterWord c.dispOff
  | .outDispOn => !isDmaRegisterWord c.dispOn && c.dispOn != c.dispOff
  | .outCramcmd _ _ => false
  | .intctl _ _ _ | .seed | .enq _ | .flush | .swapreq | .start _ | .pace | .adv => true
  | .vint | .hint => true
  | .outLenl _ | .outLenh _ | .outAddrl _ | .outAddrm _ | .outAddrh _ | .outTrigger _ | .outColor2 _ _ => true

end Sys2Proof
end

