-- ==== Sys2Proof/Decode.lean ====
section
/-! DEFINITION. The decoder, total on every signal (R80 to R83, R90, R94), and the encoder beside it (R84 to R88, R92). -/

namespace Sys2Proof

/-! ## Fields -/

/-- A control-port word: the 8-bit field under the VDP register's high byte (R84). -/
def portWord (high : Half) (field : Byte) : Half :=
  high ||| field.setWidth 16

/-- The strategy a START names in bits 1:0 (R34, R150). -/
def strategyOfCode (k : BitVec 2) : Strategy :=
  if k = 0#2 then .exact
  else if k = 1#2 then .reciprocal
  else if k = 2#2 then .delta
  else .table

/-- The 2-bit code of a strategy (R34). -/
def strategyCode : Strategy → BitVec 2
  | .exact => 0#2
  | .reciprocal => 1#2
  | .delta => 2#2
  | .table => 3#2

/-- The slot an ENQ names in bits 1:0 (R103); 3 names none (R90). -/
def slotOfCode (k : BitVec 2) : Option Slot :=
  if k = 0#2 then some .tileset
  else if k = 1#2 then some .tilemap
  else if k = 2#2 then some .palette
  else none

/-- The number of a slot (R39). -/
def slotCode : Slot → BitVec 2
  | .tileset => 0#2
  | .tilemap => 1#2
  | .palette => 2#2

/-- P_CRAM_CMD(a, dma) (R88): the default formula, or the configured table. -/
def cramCommandWord (c : Config) (a : Nat) (dma : Bool) : Word :=
  match c.cramCommand with
  | .vdpDefault =>
    let address := BitVec.ofNat 32 a
    0xC0000000#32 ||| ((address &&& 0x3FFF#32) <<< 16) ||| ((address >>> 14) &&& 0x3#32)
      ||| (if dma then 0x80#32 else 0#32)
  | .listed cpuTable dmaTable => (if dma then dmaTable else cpuTable).getD a 0#32

/-! ## Decoding -/

/-- A command that takes no field bits: every bit below the opcode must be zero (R82). -/
def plainCommand (w : Word) (i : Instr) : Instr :=
  if w.extractLsb' 0 24 = 0#24 then i else .illegal w

/-- The command of a word written to CMD: opcode dispatch (R80) after the field check of its row (R82). Every word that
is no command is ILLEGAL (R90). -/
def decodeCommand (w : Word) : Instr :=
  let op := w.extractLsb' 24 8
  if op = 0x01#8 then
    if w.extractLsb' 3 21 = 0#21 then .intctl (w.getLsbD 0) (w.getLsbD 1) (w.getLsbD 2) else .illegal w
  else if op = 0x02#8 then plainCommand w .seed
  else if op = 0x03#8 then
    if w.extractLsb' 2 22 = 0#22 then
      match slotOfCode (w.extractLsb' 0 2) with
      | some s => .enq s
      | none => .illegal w
    else .illegal w
  else if op = 0x04#8 then plainCommand w .flush
  else if op = 0x05#8 then plainCommand w .swapreq
  else if op = 0x06#8 then
    if w.extractLsb' 2 22 = 0#22 then .start (strategyOfCode (w.extractLsb' 0 2)) else .illegal w
  else if op = 0x07#8 then plainCommand w .pace
  else if op = 0x08#8 then plainCommand w .adv
  else .illegal w

/-- The output row of a 16-bit control-port word: a DMA register word (R84, R93), else one of the two display words of
the configuration (R86), else none. -/
def decodeControl16 (c : Config) (w : Half) : Option Instr :=
  let high := w.extractLsb' 8 8
  let field := w.extractLsb' 0 8
  if high = 0x93#8 then some (.outLenl field)
  else if high = 0x94#8 then some (.outLenh field)
  else if high = 0x95#8 then some (.outAddrl field)
  else if high = 0x96#8 then some (.outAddrm field)
  else if high = 0x97#8 ∧ w.extractLsb' 7 1 = 0#1 then some (.outAddrh (w.extractLsb' 0 7))
  else if w = c.dispOff then some .outDispOff
  else if w = c.dispOn then some .outDispOn
  else none

/-- The instruction a signal carries. A 32-bit control word reads as TRIGGER, whose row takes any value (R85, log 16);
a data word is two colors (R87). -/
def decode (c : Config) : Signal → Option Instr
  | .cmd w => some (decodeCommand w)
  | .vint => some .vint
  | .hint => some .hint
  | .port (.ctrl16 w) => decodeControl16 c w
  | .port (.ctrl32 w) => some (.outTrigger w)
  | .port (.data32 w) => some (.outColor2 (w.extractLsb' 16 16) (w.extractLsb' 0 16))

/-- The instruction of the low `nbits` bits of `w`, as spec/opcode_table.json numbers them: 32 bits are a command word,
16 bits a control-port word under the reference configuration's display words; the pulses have no encoding (R94). -/
def decodeTableWord (nbits w : Nat) : Option Instr :=
  if nbits = 32 then decode Config.reference (.cmd (BitVec.ofNat 32 w))
  else if nbits = 16 then decode Config.reference (.port (.ctrl16 (BitVec.ofNat 16 w)))
  else none

/-! ## Encoding -/

/-- The word of INTCTL g,v,h: 0x01000000 with GIE in bit 0, VIE in bit 1, HIE in bit 2 (R92). -/
def intctlWord (g v h : Bool) : Word :=
  0x01000000#32 ||| (if h then 4#32 else 0#32) ||| (if v then 2#32 else 0#32) ||| (if g then 1#32 else 0#32)

/-- The signal of an instruction: command words by R83 and R92, port words by R84 to R88. -/
def encode (c : Config) : Instr → Signal
  | .intctl g v h => .cmd (intctlWord g v h)
  | .seed => .cmd 0x02000000#32
  | .enq s => .cmd (0x03000000#32 ||| (slotCode s).setWidth 32)
  | .flush => .cmd 0x04000000#32
  | .swapreq => .cmd 0x05000000#32
  | .start k => .cmd (0x06000000#32 ||| (strategyCode k).setWidth 32)
  | .pace => .cmd 0x07000000#32
  | .adv => .cmd 0x08000000#32
  | .illegal w => .cmd w
  | .vint => .vint
  | .hint => .hint
  | .outLenl field => .port (.ctrl16 (portWord 0x9300#16 field))
  | .outLenh field => .port (.ctrl16 (portWord 0x9400#16 field))
  | .outAddrl field => .port (.ctrl16 (portWord 0x9500#16 field))
  | .outAddrm field => .port (.ctrl16 (portWord 0x9600#16 field))
  | .outAddrh field => .port (.ctrl16 (portWord 0x9700#16 (field.setWidth 8)))
  | .outTrigger dest => .port (.ctrl32 dest)
  | .outCramcmd a dma => .port (.ctrl32 (cramCommandWord c a.toNat dma))
  | .outDispOff => .port (.ctrl16 c.dispOff)
  | .outDispOn => .port (.ctrl16 c.dispOn)
  | .outColor2 first second => .port (.data32 (first ++ second))

end Sys2Proof
end

