-- ==== Sys2Proof/Machine/State.lean ====
section
/-! DEFINITION. The state of the FSE (10_state.md), the inputs it takes (R200, R230), and the reasons a step can stop. -/

namespace Sys2Proof.Machine

/-! ## Parts of the state -/

/-- HSTATE (R32): the states of the palette cycler; code 3 is reserved and never held (log 22). -/
inductive HState where
  | idle
  | armed
  | swapping
deriving DecidableEq, Repr

/-- DmaOp (R40): the six formatted words of one transfer. -/
structure DmaOp where
  lenL : Half
  lenH : Half
  addrL : Half
  addrM : Half
  addrH : Half
  dest : Word
deriving DecidableEq, Repr

/-- A slot of the DMA queue: READY[s] (R39) and OP[s] (R40). -/
structure DmaSlot where
  ready : Bool
  op : DmaOp
deriving DecidableEq, Repr

/-- The error codes 1 to 8 (R206). -/
inductive ErrorCode where
  | illegal
  | arg
  | buf
  | live
  | unseeded
  | range
  | badacc
  | seq
deriving DecidableEq, Repr

/-- The width of a host register access (R65, log 24). -/
inductive AccessWidth where
  | bits8
  | bits16
  | bits32
deriving DecidableEq, Repr

/-- What the FSE reacts to. `hostWrite`, `hostRead`, `vint` and `hint` are the four inputs of R200 and `reset` is the
fifth (R230, C12); `vintWithHint` presents both pulses together (R204); `hostStore` is the HOST's store of one byte to
host memory, a transition of the HOST and not of the FSE (R64, R232, R240, log 19). -/
inductive Input where
  | hostWrite (offset : Byte) (width : AccessWidth) (value : Word)
  | hostRead (offset : Byte) (width : AccessWidth)
  | vint
  | hint
  | vintWithHint
  | reset
  | hostStore (address : BitVec 24) (value : Byte)
deriving DecidableEq, Repr

/-- Host memory (R60 (2)): the bytes that have been stored, by strictly rising address (log 8). -/
abbrev Memory := List Host.Cell

/-! ## Stops -/

/-- The faults of the model. -/
inductive Fault where
  /-- Raised by `memRead` for a read that reaches past 0xFFFFFF: the address space of the host has no such byte (R61).
  Safe: no state that satisfies the invariants of R51 raises it (log 7). -/
  | hostAddress
deriving DecidableEq, Repr

/-- The refusals of the model. -/
inductive Refusal where
  /-- Raised by `exec` for an instruction that has no meaning yet; no arm of this model does. Safe. -/
  | notModelled (mnemonic : String)
  /-- Raised by `step` when no input is left: the FSE takes no step without an input (R200, log 4). Safe. -/
  | noInput
  /-- Raised by `step` under a configuration that is not well-formed (R7, R233, log 5). Safe. -/
  | illFormedConfig
  /-- Raised by `step` for a placed word that is none of the output rows (log 16). Safe: no run places one (log 15). -/
  | unknownPortWord
deriving DecidableEq, Repr

/-! ## The state -/

/-- Every element of 10_state.md, then the model's own fields. -/
structure State where
  /-- ARG0, ARG1, ARG2 (R22). -/
  arg0 : Word
  arg1 : Word
  arg2 : Word
  /-- RES (R23). -/
  res : Word
  /-- GIE, VIE, HIE (R24). -/
  gie : Bool
  vie : Bool
  hie : Bool
  /-- SEEDED, STARTED, DONE (R25). -/
  seeded : Bool
  started : Bool
  done : Bool
  /-- BUFA, BUFB (R26). -/
  bufA : Word
  bufB : Word
  /-- RSEL, SWAP_PENDING (R27). -/
  rsel : Bool
  swapPending : Bool
  /-- HLINE (R28). -/
  hline : Half
  /-- HSTRIP (R29). -/
  hstrip : Byte
  /-- HPTR (R30). -/
  hptr : Word
  /-- TOGGLE (R31). -/
  toggle : Bool
  /-- HSTATE (R32). -/
  hstate : HState
  /-- TICK (R33). -/
  tick : Word
  /-- STRAT (R34). -/
  strat : Strategy
  /-- PT, PI, PA (R35). -/
  pt : Word
  pidx : Half
  pa : Byte
  /-- LUT (R36): the entries START has written, from index 0; the others are unspecified (log 12). -/
  lut : List Half
  /-- LIDX (R37). -/
  lidx : Half
  /-- PARITY (R38). -/
  parity : Bool
  /-- READY[0], OP[0] (R39, R40): the tileset slot. -/
  slot0 : DmaSlot
  /-- READY[1], OP[1]: the tilemap slot. -/
  slot1 : DmaSlot
  /-- READY[2], OP[2]: the palette slot. -/
  slot2 : DmaSlot
  /-- ERRMASK, FIRSTERR (R41). -/
  errmask : Byte
  firsterr : Byte
  /-- DBG_BUDGET (R42). -/
  dbgBudget : Word
  /-- DBG_HLOST, DBG_VLOST (R43). -/
  dbgHlost : Half
  dbgVlost : Half
  /-- TRACE (R45): the port events since reset, the oldest first. -/
  trace : List PortEvent
  /-- MODEL's own: the configuration of R6, which no operation writes (R20, log 1). -/
  cfg : Config
  /-- MODEL's own: host memory, which no FSE operation writes (R63, log 8). -/
  mem : Memory
  /-- MODEL's own: addresses of palette bytes the host stored to in breach of R240 (R64, log 9). -/
  races : List Nat
  /-- MODEL's own: how many racing bytes have been read (log 13). -/
  freeCtr : Nat
  /-- MODEL's own: the inputs not yet taken, the next one first (log 3). -/
  inputs : List Input
  /-- MODEL's own: an output word that `withFetchWord` placed, to be run alone before any input. No input and no
instruction writes it: a run from reset never holds one (R200, log 15). -/
  placedWord : Option PortEvent
  /-- MODEL's own: the values the host's register reads returned since reset, the oldest first (R49, log 14). -/
  hostReads : List Word
deriving DecidableEq, Repr

/-- OP[s] at reset: every field 0 (R40, R230). -/
def DmaOp.zero : DmaOp := ⟨0, 0, 0, 0, 0, 0⟩

/-- A slot at reset: not ready, every field of its op 0 (R230). -/
def DmaSlot.empty : DmaSlot := ⟨false, DmaOp.zero⟩

/-- The state after reset (R230): every element 0 but STRAT = 3. The model's own fields: the reference configuration
(log 2), nothing stored, nothing pending, and the draw counter at 0 (DESIGN CHOICE, log 13). -/
def State.reset : State where
  arg0 := 0
  arg1 := 0
  arg2 := 0
  res := 0
  gie := false
  vie := false
  hie := false
  seeded := false
  started := false
  done := false
  bufA := 0
  bufB := 0
  rsel := false
  swapPending := false
  hline := 0
  hstrip := 0
  hptr := 0
  toggle := false
  hstate := .idle
  tick := 0
  strat := .table
  pt := 0
  pidx := 0
  pa := 0
  lut := []
  lidx := 0
  parity := false
  slot0 := DmaSlot.empty
  slot1 := DmaSlot.empty
  slot2 := DmaSlot.empty
  errmask := 0
  firsterr := 0
  dbgBudget := 0
  dbgHlost := 0
  dbgVlost := 0
  trace := []
  cfg := Config.reference
  mem := []
  races := []
  freeCtr := 0
  inputs := []
  placedWord := none
  hostReads := []

end Sys2Proof.Machine
end

