-- ==== Sys2Proof/Machine/Flags.lean ====
section
/-! DEFINITION. The status views of the register map (R46, R47) and the saturating counters (R42, R43). -/

namespace Sys2Proof.Machine

/-- A flag as a 32-bit number, zero-extended. -/
def flagWord (b : Bool) : Word :=
  if b then 1#32 else 0#32

/-- The 2-bit code of HSTATE (R32). -/
def hstateCode : HState → BitVec 2
  | .idle => 0#2
  | .armed => 1#2
  | .swapping => 2#2

/-- FAULT = (ERRMASK != 0) (R46). -/
def faultFlag (s : State) : Bool :=
  s.errmask != 0#8

/-- STATUS (R46): every bit by its number; bits 10:9 and 31:17 read 0. -/
def statusWord (s : State) : Word :=
  flagWord s.gie ||| (flagWord s.vie <<< 1) ||| (flagWord s.hie <<< 2)
    ||| (flagWord s.seeded <<< 3) ||| (flagWord s.started <<< 4)
    ||| (flagWord s.swapPending <<< 5) ||| (flagWord s.rsel <<< 6)
    ||| (flagWord s.parity <<< 7) ||| (flagWord s.done <<< 8)
    ||| ((hstateCode s.hstate).setWidth 32 <<< 11) ||| (flagWord s.toggle <<< 13)
    ||| ((strategyCode s.strat).setWidth 32 <<< 14) ||| (flagWord (faultFlag s) <<< 16)

/-- ERROR (R47): FIRSTERR in bits 15:8, ERRMASK in bits 7:0. -/
def errorWord (s : State) : Word :=
  (s.firsterr.setWidth 32 <<< 8) ||| s.errmask.setWidth 32

/-- min(v + 1, 2^n - 1): one more event of a saturating count (R42, R43, R107, R202, R203). -/
def saturatingSucc {n : Nat} (v : BitVec n) : BitVec n :=
  BitVec.ofNat n (min (v.toNat + 1) (2 ^ n - 1))

end Sys2Proof.Machine
end

