-- ==== Sys2Proof/Machine/Ops.lean ====
section
/-! DEFINITION. The named operations every meaning is written over: host memory, the error record, the port events, the
DMA op encoder and the buffer roles. -/

namespace Sys2Proof.Machine

/-! ## Host memory (20_memory.md) -/

/-- The stored byte of an address, if one is stored. -/
def Memory.lookup : Memory → Nat → Option Byte
  | [], _ => none
  | c :: m, a => if c.1 = a then some c.2 else Memory.lookup m a

/-- Store one byte, keeping the addresses strictly rising. -/
def Memory.store : Memory → Nat → Byte → Memory
  | [], a, b => [(a, b)]
  | c :: m, a, b =>
    if a < c.1 then (a, b) :: c :: m
    else if c.1 = a then (a, b) :: m
    else c :: Memory.store m a b

/-- The canonical form: strictly rising 24-bit addresses (R61). An unlisted address holds no stored byte, so no entry
repeats what an unlisted address reads as. -/
abbrev Memory.wf (m : Memory) : Prop :=
  m.Pairwise (fun c d => c.1 < d.1) ∧ ∀ c ∈ m, c.1 < 2 ^ 24

/-- Whether a host address belongs to the FSE register window (R48, R67). -/
def inRegisterWindow (c : Config) (a : Nat) : Bool :=
  decide (c.base.toNat ≤ a) && decide (a < c.base.toNat + 256)

/-- One byte of host memory as the FSE reads it: any value where the read races with a host store (R64) or where the
register window stands (R236, log 11), else the byte stored there, else what memory held before any store (log 8). -/
def readHostByte (a : Nat) (s : State) : Byte × State :=
  if s.races.contains a || inRegisterWindow s.cfg a then
    (Config.racingByte s.freeCtr, { s with freeCtr := s.freeCtr + 1 })
  else ((s.mem.lookup a).getD (Config.unwrittenByte a), s)

/-- MemRead(a, 4) (R11, R62, R64): four bytes in rising order, the first in bits 31:24. A read past 0xFFFFFF names no
byte of the 24-bit space and faults (log 7). -/
def memRead (a : Nat) (s : State) : Except Fault (Word × State) :=
  if 0xFFFFFF < a + 3 then .error .hostAddress
  else
    let (b0, s0) := readHostByte a s
    let (b1, s1) := readHostByte (a + 1) s0
    let (b2, s2) := readHostByte (a + 2) s1
    let (b3, s3) := readHostByte (a + 3) s2
    .ok (b0 ++ b1 ++ b2 ++ b3, s3)

/-! ## Outcomes -/

/-- A transition that may fault, as an outcome of the step. -/
def outcomeOf : Except Fault State → Host.Outcome State Fault Refusal
  | .ok s => .next s
  | .error f => .fault f

/-! ## Errors (60_exceptions.md) -/

/-- The number of an error code (R206). -/
def errorNumber : ErrorCode → Nat
  | .illegal => 1
  | .arg => 2
  | .buf => 3
  | .live => 4
  | .unseeded => 5
  | .range => 6
  | .badacc => 7
  | .seq => 8

/-- raise Err(c) (R207): the code's bit joins ERRMASK, FIRSTERR keeps the first code, and the access has no other
effect. The hardware goes on, so this is a next state; the verdict of R209 is `State.errorFree` (log 6). -/
def raiseError (e : ErrorCode) (s : State) : State :=
  { s with
    errmask := s.errmask ||| (1#8 <<< (errorNumber e - 1))
    firsterr := if s.firsterr = 0#8 then BitVec.ofNat 8 (errorNumber e) else s.firsterr }

/-! ## Port events -/

/-- EmitCtrl16, EmitCtrl32, EmitData32 (R11): append to TRACE (R45). -/
def emit (e : PortEvent) (s : State) : State :=
  { s with trace := s.trace ++ [e] }

/-! ## DMA ops (40_dma_queue.md) -/

/-- Encode(addr, dest, len) (R84, R100): the low eight bits of a shifted number are its bits under the mask 0xFF. -/
def encodeOp (addr dest len : Word) : DmaOp where
  lenL := portWord 0x9300#16 (len.setWidth 8)
  lenH := portWord 0x9400#16 ((len >>> 8).setWidth 8)
  addrL := portWord 0x9500#16 ((addr >>> 1).setWidth 8)
  addrM := portWord 0x9600#16 ((addr >>> 9).setWidth 8)
  addrH := portWord 0x9700#16 ((addr >>> 17).setWidth 8 &&& 0x7F#8)
  dest := dest

/-- Len(op) of R107, the length R93 decodes. -/
def opLength (op : DmaOp) : Nat :=
  (((op.lenH &&& 0xFF#16).setWidth 32 <<< 8) ||| (op.lenL &&& 0xFF#16).setWidth 32).toNat

/-- The source address R93 decodes. -/
def opAddress (op : DmaOp) : Word :=
  ((op.addrH &&& 0x7F#16).setWidth 32 <<< 17) ||| ((op.addrM &&& 0xFF#16).setWidth 32 <<< 9)
    ||| ((op.addrL &&& 0xFF#16).setWidth 32 <<< 1)

/-- The events of EmitOp (R102), in order. -/
def opEvents (op : DmaOp) : List PortEvent :=
  [.ctrl16 op.lenL, .ctrl16 op.lenH, .ctrl16 op.addrL, .ctrl16 op.addrM, .ctrl16 op.addrH, .ctrl32 op.dest]

/-- EmitOp(op) (R102). -/
def emitOp (op : DmaOp) (s : State) : State :=
  { s with trace := s.trace ++ opEvents op }

/-- READY[s] and OP[s] (R39, R40). -/
def slotOf (k : Slot) (s : State) : DmaSlot :=
  match k with
  | .tileset => s.slot0
  | .tilemap => s.slot1
  | .palette => s.slot2

/-- Write READY[s] and OP[s]. -/
def setSlot (k : Slot) (v : DmaSlot) (s : State) : State :=
  match k with
  | .tileset => { s with slot0 := v }
  | .tilemap => { s with slot1 := v }
  | .palette => { s with slot2 := v }

/-! ## Buffer roles (R27) -/

/-- BUF[RSEL]: the Render buffer. -/
def renderBase (s : State) : Word :=
  if s.rsel then s.bufB else s.bufA

/-- BUF[RSEL ^ 1]: the Unpack buffer. -/
def unpackBase (s : State) : Word :=
  if s.rsel then s.bufA else s.bufB

/-- Whether an address lies in the palette buffer at a base. -/
def inBuffer (c : Config) (base : Word) (a : Nat) : Bool :=
  decide (base.toNat ≤ a) && decide (a < base.toNat + c.bufferBytes)

/-- A host store that breaks R240: into the Render buffer, or into either buffer while a swap is pending (R64, D28, D37,
log 9). Before SEED there are no palette buffers. DESIGN CHOICE (log 26, unsafe): SWAP_PENDING itself decides, so a store
into the new Unpack buffer after the swap is no breach, although R240 has the host first read SWAP_PENDING = 0. -/
def breaksSwapDiscipline (s : State) (a : Nat) : Bool :=
  s.seeded && (inBuffer s.cfg (renderBase s) a || (s.swapPending && inBuffer s.cfg (unpackBase s) a))

end Sys2Proof.Machine
end

