-- ==== Sys2Proof/Machine/Operands.lean ====
section
/-! DEFINITION. The operand checks and the operand functions of the commands. Register operands are the full 32-bit values
of ARG0, ARG1, ARG2, unsigned (R89); arithmetic is on unbounded integers (R10). -/

namespace Sys2Proof.Machine

/-- InDomain(addr, len) (R101): even, one to 0xFFFF words, inside 24 bits, inside one 128 KiB segment. -/
def inEncoderDomain (addr len : Word) : Bool :=
  let a := addr.toNat
  let n := len.toNat
  decide (a % 2 = 0) && decide (1 ≤ n) && decide (n ≤ 0xFFFF) && decide (a + 2 * n - 1 ≤ 0xFFFFFF)
    && decide (a >>> 17 = (a + 2 * n - 1) >>> 17)

/-- The conditions SEED puts on one palette buffer of n bytes (R121): even, inside 24 bits, inside one segment. -/
def bufferFits (base : Word) (n : Nat) : Bool :=
  let a := base.toNat
  decide (a % 2 = 0) && decide (a + n - 1 ≤ 0xFFFFFF) && decide (a >>> 17 = (a + n - 1) >>> 17)

/-- The conditions SEED puts on both buffers (R121): each fits, and they do not overlap. -/
def buffersFit (a b : Word) (n : Nat) : Bool :=
  bufferFits a n && bufferFits b n && decide (a.toNat + n ≤ b.toNat ∨ b.toNat + n ≤ a.toNat)

/-- InWindow(h) (R126). -/
def inWindow (c : Config) (h : Half) : Bool :=
  decide ((c.windowOf c.std).first ≤ h) && decide (h ≤ (c.windowOf c.std).last)

/-- P_PAIR_ADDR[TOGGLE] (R122). -/
def pairAddress (c : Config) (toggle : Bool) : Nat :=
  if toggle then c.pairAddr1 else c.pairAddr0

/-- SPLIT[n] (R128): the sub-ranges (offset in colors, count in colors) of a strip. -/
def splitRanges : Split → List (Nat × Nat)
  | .one => [(0, 8)]
  | .two => [(0, 4), (4, 4)]
  | .three => [(0, 3), (3, 3), (6, 2)]

/-- Exact(t) = floor(t * T / R) (R151). -/
def exactIndex (c : Config) (t : Nat) : Nat :=
  t * c.targetRate / c.refresh

/-- The reciprocal strategy (R153). -/
def reciprocalIndex (c : Config) (t : Nat) : Nat :=
  (t * c.recipMul) >>> c.recipShift

/-- LUT[t] (R36, R154): the entry START wrote, or an unspecified value where none is (log 12). -/
def lutEntry (s : State) (t : Nat) : Half :=
  s.lut.getD t (Config.unspecifiedLutEntry t)

/-- Next(cur, raw) (R175). -/
def nextIndex (c : Config) (cur raw : Nat) : Nat :=
  match c.dropPolicy with
  | .step => cur + 1
  | .drop =>
    let n0 := max raw (cur + 1)
    if (n0 - cur) % 2 = 0 then n0 - 1 else n0

end Sys2Proof.Machine
end

