-- ==== Sys2Proof/Machine/Arbiter.lean ====
section
/-! DEFINITION. The swap controller, the ping-pong arbiter and the interrupt synchronizer: SWAPREQ, ADV, INTCTL
(43_swap_arbiter.md), and the class of illegal command words (R90). -/

namespace Sys2Proof.Machine

/-- SWAPREQ (R170). -/
def execSwapreq (s : State) : Host.Outcome State Fault Refusal :=
  .next { s with swapPending := true }

/-- ADV (R174): the next index goes to RES; it is committed to LIDX and PARITY, or ends the video (R176). -/
def execAdv (s : State) : Host.Outcome State Fault Refusal :=
  if !s.started || s.done then .next (raiseError .seq s)
  else
    let next := nextIndex s.cfg s.lidx.toNat s.arg0.toNat
    let answered := { s with res := BitVec.ofNat 32 next }
    if s.cfg.numFrames ≤ next then .next { answered with done := true }
    else .next { answered with lidx := BitVec.ofNat 16 next, parity := decide (next % 2 = 1) }

/-- INTCTL g,v,h (R177). -/
def execIntctl (g v h : Bool) (s : State) : Host.Outcome State Fault Refusal :=
  if g && (v || h) && !s.seeded then .next (raiseError .unseeded s)
  else .next { s with gie := g, vie := v, hie := h }

/-- An ILLEGAL word (R90): Err(1) and no other effect; the word is not kept (R207). -/
def execIllegal (_word : Word) (s : State) : Host.Outcome State Fault Refusal :=
  .next (raiseError .illegal s)

end Sys2Proof.Machine
end

