-- ==== Sys2Proof/Machine/DmaQueue.lean ====
section
/-! DEFINITION. The DMA queue: ENQ and FLUSH (40_dma_queue.md). -/

namespace Sys2Proof.Machine

/-- ENQ s (R103): encode ARG0, ARG1, ARG2 into slot s, or Err(2) outside the encoder domain. -/
def execEnq (k : Slot) (s : State) : Host.Outcome State Fault Refusal :=
  if inEncoderDomain s.arg0 s.arg2 then
    .next (setSlot k ⟨true, encodeOp s.arg0 s.arg1 s.arg2⟩ s)
  else .next (raiseError .arg s)

/-- The bytes one slot would transfer in a flush (R107). -/
def readyBytes (v : DmaSlot) : Nat :=
  if v.ready then 2 * opLength v.op else 0

/-- BudgetCheck() (R107). -/
def budgetCheck (s : State) : State :=
  let total := readyBytes s.slot0 + readyBytes s.slot1 + readyBytes s.slot2
  if s.cfg.flushBudget.toNat < total then { s with dbgBudget := saturatingSucc s.dbgBudget } else s

/-- One slot of the walk (R106): a ready slot's op is emitted and the slot marked not ready; its op is kept (R40). -/
def flushSlot (k : Slot) (s : State) : State :=
  if (slotOf k s).ready then setSlot k ⟨false, (slotOf k s).op⟩ (emitOp (slotOf k s).op s) else s

/-- A display word around a flush, present when P_FLUSH_BLANK = 1 (R108). -/
def blankWord (w : Half) (s : State) : State :=
  if s.cfg.flushBlank then emit (.ctrl16 w) s else s

/-- FLUSH (R106): the fixed walk over slots 0, 1, 2 (R105). An empty queue emits nothing and changes nothing (R110). -/
def execFlush (s : State) : Host.Outcome State Fault Refusal :=
  if s.slot0.ready || s.slot1.ready || s.slot2.ready then
    let opened := blankWord s.cfg.dispOff (budgetCheck s)
    let walked := flushSlot .palette (flushSlot .tilemap (flushSlot .tileset opened))
    .next (blankWord s.cfg.dispOn walked)
  else .next s

end Sys2Proof.Machine
end

