-- ==== Sys2Proof/Machine/Pacer.lean ====
section
/-! DEFINITION. The frame-pacing counter: START and PACE (42_frame_pacer.md). -/

namespace Sys2Proof.Machine

/-- LUT[t] <- Exact(t) for t in 0 .. P_MAX_TICKS - 1 (R150). -/
def builtLut (c : Config) : List Half :=
  (List.range c.maxTicks).map fun t => BitVec.ofNat 16 (exactIndex c t)

/-- START k (R150). -/
def execStart (k : Strategy) (s : State) : Host.Outcome State Fault Refusal :=
  if s.gie then .next (raiseError .live s)
  else
    .next { s with
      strat := k, tick := 0, lidx := 0, parity := false, done := false, pt := 0, pidx := 0, pa := 0
      lut := builtLut s.cfg, started := true }

/-- Delta(t) (R155), which leaves its result in PI. -/
def deltaUpdate (t : Word) (s : State) : State :=
  if t = s.pt then s
  else if s.pt < t then
    let acc := s.pa.toNat + (t.toNat - s.pt.toNat) * s.cfg.targetRate
    { s with
      pidx := BitVec.ofNat 16 (s.pidx.toNat + acc / s.cfg.refresh)
      pa := BitVec.ofNat 8 (acc % s.cfg.refresh)
      pt := t }
  else
    { s with
      pidx := BitVec.ofNat 16 (exactIndex s.cfg t.toNat)
      pa := BitVec.ofNat 8 (t.toNat * s.cfg.targetRate % s.cfg.refresh)
      pt := t }

/-- The case of STRAT in PACE (R157): the result, and the state after the strategy (only Delta writes any). -/
def paceByStrategy (t : Word) (s : State) : Word × State :=
  match s.strat with
  | .exact => (BitVec.ofNat 32 (exactIndex s.cfg t.toNat), s)
  | .reciprocal => (BitVec.ofNat 32 (reciprocalIndex s.cfg t.toNat), s)
  | .delta => ((deltaUpdate t s).pidx.setWidth 32, deltaUpdate t s)
  | .table => ((lutEntry s t.toNat).setWidth 32, s)

/-- PACE (R157). -/
def execPace (s : State) : Host.Outcome State Fault Refusal :=
  if !s.started then .next (raiseError .seq s)
  else if s.cfg.maxTicks ≤ s.arg0.toNat then .next (raiseError .range s)
  else
    let (r, s') := paceByStrategy s.arg0 s
    .next { s' with res := r }

end Sys2Proof.Machine
end

