-- ==== Sys2Proof/Machine/PortWords.lean ====
section
/-! DEFINITION. The output rows of the opcode table. Each appends its own port event to TRACE and does nothing else
(R11, R45, log 15); the words are those of R84 to R88. -/

namespace Sys2Proof.Machine

/-- out.LENL (R84). -/
def execOutLenl (field : Byte) (s : State) : Host.Outcome State Fault Refusal :=
  .next (emit (.ctrl16 (portWord 0x9300#16 field)) s)

/-- out.LENH (R84). -/
def execOutLenh (field : Byte) (s : State) : Host.Outcome State Fault Refusal :=
  .next (emit (.ctrl16 (portWord 0x9400#16 field)) s)

/-- out.ADDRL (R84). -/
def execOutAddrl (field : Byte) (s : State) : Host.Outcome State Fault Refusal :=
  .next (emit (.ctrl16 (portWord 0x9500#16 field)) s)

/-- out.ADDRM (R84). -/
def execOutAddrm (field : Byte) (s : State) : Host.Outcome State Fault Refusal :=
  .next (emit (.ctrl16 (portWord 0x9600#16 field)) s)

/-- out.ADDRH (R84): bit 7 is always 0. -/
def execOutAddrh (field : BitVec 7) (s : State) : Host.Outcome State Fault Refusal :=
  .next (emit (.ctrl16 (portWord 0x9700#16 (field.setWidth 8))) s)

/-- out.TRIGGER (R85): the word passes through unchanged. -/
def execOutTrigger (dest : Word) (s : State) : Host.Outcome State Fault Refusal :=
  .next (emit (.ctrl32 dest) s)

/-- out.CRAMCMD (R88). -/
def execOutCramcmd (address : BitVec 7) (dma : Bool) (s : State) : Host.Outcome State Fault Refusal :=
  .next (emit (.ctrl32 (cramCommandWord s.cfg address.toNat dma)) s)

/-- out.DISP_OFF (R86). -/
def execOutDispOff (s : State) : Host.Outcome State Fault Refusal :=
  .next (emit (.ctrl16 s.cfg.dispOff) s)

/-- out.DISP_ON (R86). -/
def execOutDispOn (s : State) : Host.Outcome State Fault Refusal :=
  .next (emit (.ctrl16 s.cfg.dispOn) s)

/-- out.COLOR2 (R87): the color of the lower host address in bits 31:16. -/
def execOutColor2 (first second : Half) (s : State) : Host.Outcome State Fault Refusal :=
  .next (emit (.data32 (first ++ second)) s)

end Sys2Proof.Machine
end

