-- ==== Sys2Proof/Machine/Palette.lean ====
section
/-! DEFINITION. The palette cycler: SEED, the strip write, and its parts of the two services (41_hint_cycler.md). -/

namespace Sys2Proof.Machine

/-- The palette-strip pointer, counter and toggle set back to the start of a buffer (R121, R123). -/
def rewindStrips (base : Word) (s : State) : State :=
  { s with hline := s.cfg.lineOffset, hstrip := 0, hptr := base, toggle := false, hstate := .idle }

/-- SEED (R121). It ends every race: the stores before it are ordered before every later read (R232, log 10). -/
def execSeed (s : State) : Host.Outcome State Fault Refusal :=
  if s.gie then .next (raiseError .live s)
  else if buffersFit s.arg0 s.arg1 s.cfg.bufferBytes then
    .next (rewindStrips s.arg0
      { s with
        bufA := s.arg0, bufB := s.arg1, rsel := false, swapPending := false, seeded := true, races := [] })
  else .next (raiseError .buf s)

/-- The color words of a CPU-path strip write (R125): one MemRead and one DATA event for each k of the list. -/
def copyColors : List Nat → State → Except Fault State
  | [], s => .ok s
  | k :: ks, s =>
    match memRead (s.hptr.toNat + 4 * k) s with
    | .error f => .error f
    | .ok (w, s') => copyColors ks (emit (.data32 w) s')

/-- The bursts of a DMA-path strip write (R125): one DmaOp for each sub-range, emitted directly, never through a slot
(C4). -/
def emitBursts (dst : Nat) : List (Nat × Nat) → State → State
  | [], s => s
  | (o, n) :: rest, s =>
    emitBursts dst rest
      (emitOp (encodeOp (s.hptr + BitVec.ofNat 32 (2 * o)) (cramCommandWord s.cfg (dst + 2 * o) true)
        (BitVec.ofNat 32 n)) s)

/-- The advance at the end of a strip write (R125). -/
def advanceStrip (s : State) : State :=
  { s with
    hstrip := s.hstrip + 1
    hptr := s.hptr + BitVec.ofNat 32 s.cfg.stripStride
    toggle := !s.toggle }

/-- StripWrite() (R125). -/
def stripWrite (s : State) : Except Fault State :=
  let dst := pairAddress s.cfg s.toggle
  match s.cfg.path with
  | .cpu =>
    match copyColors [0, 1, 2, 3] (emit (.ctrl32 (cramCommandWord s.cfg dst false)) s) with
    | .error f => .error f
    | .ok s' => .ok (advanceStrip s')
  | .dma split => .ok (advanceStrip (emitBursts dst (splitRanges split) s))

/-- StripWrite() a number of times (R123), each seeing the writes of the one before (R12, C9). -/
def stripWrites : Nat → State → Except Fault State
  | 0, s => .ok s
  | n + 1, s =>
    match stripWrite s with
    | .error f => .error f
    | .ok s' => stripWrites n s'

/-- SwapStep() (R171). -/
def swapStep (s : State) : State :=
  if s.swapPending then { s with rsel := !s.rsel, swapPending := false } else s

/-- BeginFrame() (R123): rewind to the Render buffer, then pre-load P_PRELOAD strips without a display toggle (R124). -/
def beginFrame (s : State) : Except Fault State :=
  stripWrites s.cfg.preload (rewindStrips (renderBase s) s)

/-- HintStep() (R127): the line counter always advances; a strip is written only inside the window and while one is
left. -/
def hintStep (s : State) : Except Fault State :=
  let counted := { s with hline := s.hline + BitVec.ofNat 16 s.cfg.stripHeight }
  if !inWindow s.cfg counted.hline || decide (s.cfg.numStrips ≤ s.hstrip.toNat) then
    .ok { counted with hstate := .idle }
  else
    match stripWrite (emit (.ctrl16 s.cfg.dispOff) { counted with hstate := .swapping }) with
    | .error f => .error f
    | .ok s' => .ok { emit (.ctrl16 s.cfg.dispOn) s' with hstate := .armed }

end Sys2Proof.Machine
end

