-- ==== Sys2Proof/Machine/Services.lean ====
section
/-! DEFINITION. The two services (60_exceptions.md). Entry saves nothing and changes no enable; the return is the end of the
transition (R211). -/

namespace Sys2Proof.Machine

/-- The VINT pulse (R202): TICK counts every pulse; the service swaps, then begins the frame; a masked service is
discarded and counted. -/
def execVint (s : State) : Host.Outcome State Fault Refusal :=
  let ticked := { s with tick := s.tick + 1 }
  if s.gie && s.vie then outcomeOf (beginFrame (swapStep ticked))
  else .next { ticked with dbgVlost := saturatingSucc s.dbgVlost }

/-- The HINT pulse (R203): the HINT step, or the pulse is discarded and counted. -/
def execHint (s : State) : Host.Outcome State Fault Refusal :=
  if s.gie && s.hie then outcomeOf (hintStep s)
  else .next { s with dbgHlost := saturatingSucc s.dbgHlost }

end Sys2Proof.Machine
end

