-- ==== Sys2Proof/Machine/Dispatch.lean ====
section
/-! DEFINITION. One arm per instruction. -/

namespace Sys2Proof.Machine

def exec (i : Instr) (s : State) : Host.Outcome State Fault Refusal :=
  match i with
  | .intctl g v h => Sys2Proof.Machine.execIntctl g v h s
  | .seed => Sys2Proof.Machine.execSeed s
  | .enq slot => Sys2Proof.Machine.execEnq slot s
  | .flush => Sys2Proof.Machine.execFlush s
  | .swapreq => Sys2Proof.Machine.execSwapreq s
  | .start strategy => Sys2Proof.Machine.execStart strategy s
  | .pace => Sys2Proof.Machine.execPace s
  | .adv => Sys2Proof.Machine.execAdv s
  | .illegal word => Sys2Proof.Machine.execIllegal word s
  | .vint => Sys2Proof.Machine.execVint s
  | .hint => Sys2Proof.Machine.execHint s
  | .outLenl field => Sys2Proof.Machine.execOutLenl field s
  | .outLenh field => Sys2Proof.Machine.execOutLenh field s
  | .outAddrl field => Sys2Proof.Machine.execOutAddrl field s
  | .outAddrm field => Sys2Proof.Machine.execOutAddrm field s
  | .outAddrh field => Sys2Proof.Machine.execOutAddrh field s
  | .outTrigger dest => Sys2Proof.Machine.execOutTrigger dest s
  | .outCramcmd address dma => Sys2Proof.Machine.execOutCramcmd address dma s
  | .outDispOff => Sys2Proof.Machine.execOutDispOff s
  | .outDispOn => Sys2Proof.Machine.execOutDispOn s
  | .outColor2 first second => Sys2Proof.Machine.execOutColor2 first second s

end Sys2Proof.Machine
end

