-- ==== Sys2Proof/Machine/HostPort.lean ====
section
/-! DEFINITION. The inputs of the FSE (R200, R230): the register map (R48), host register accesses (R49, R50), the host's
stores to its own memory, the pulses, reset, and what one input does. -/

namespace Sys2Proof.Machine

/-! ## The register map -/

/-- A host register access is good only as a 32-bit access at a 4-byte-aligned offset (R49, R50, R65). -/
def goodAccess (offset : Byte) (width : AccessWidth) : Bool :=
  decide (width = .bits32) && decide (offset.toNat % 4 = 0)

/-- The seven registers of one slot, from its first offset (R48); 0x1C is reserved. -/
def slotRegisters (first : Nat) (v : DmaSlot) : List (Nat × Word) :=
  [(first, flagWord v.ready), (first + 0x04, v.op.lenL.setWidth 32), (first + 0x08, v.op.lenH.setWidth 32),
   (first + 0x0C, v.op.addrL.setWidth 32), (first + 0x10, v.op.addrM.setWidth 32),
   (first + 0x14, v.op.addrH.setWidth 32), (first + 0x18, v.op.dest)]

/-- The register map: each offset with its read value (R48). CMD reads 0 (D39). -/
def registers (s : State) : List (Nat × Word) :=
  [(0x00, 0#32), (0x04, s.arg0), (0x08, s.arg1), (0x0C, s.arg2), (0x10, s.res), (0x14, statusWord s),
   (0x18, errorWord s), (0x1C, s.tick), (0x20, s.lidx.setWidth 32), (0x24, s.bufA), (0x28, s.bufB),
   (0x2C, s.hptr), (0x30, s.hline.setWidth 32), (0x34, s.hstrip.setWidth 32), (0x38, s.dbgBudget),
   (0x3C, s.dbgVlost ++ s.dbgHlost)]
    ++ slotRegisters 0x40 s.slot0 ++ slotRegisters 0x60 s.slot1 ++ slotRegisters 0x80 s.slot2

/-- The read value of an offset (R48); none where the offset is reserved. -/
def readRegister (offset : Nat) (s : State) : Option Word :=
  (registers s).lookup offset

/-- HostRead (R49): the read value, or 0 and Err(7). The value goes to the host (log 14). -/
def hostRead (offset : Byte) (width : AccessWidth) (s : State) : State :=
  match (if goodAccess offset width then readRegister offset.toNat s else none) with
  | some v => { s with hostReads := s.hostReads ++ [v] }
  | none => { raiseError .badacc s with hostReads := s.hostReads ++ [0#32] }

/-- HostWrite (R50): CMD executes a command, ARG0 to ARG2 are written, anything else raises Err(7). -/
def hostWrite (offset : Byte) (width : AccessWidth) (value : Word) (s : State) :
    Host.Outcome State Fault Refusal :=
  if goodAccess offset width then
    if offset = 0x00#8 then exec (decodeCommand value) s
    else if offset = 0x04#8 then .next { s with arg0 := value }
    else if offset = 0x08#8 then .next { s with arg1 := value }
    else if offset = 0x0C#8 then .next { s with arg2 := value }
    else .next (raiseError .badacc s)
  else .next (raiseError .badacc s)

/-! ## The other inputs -/

/-- The addresses of racing palette bytes after a host store (R64, R240): a store in breach of R240 adds its address, any
other store settles it (log 9, log 10). -/
def racesAfterStore (a : Nat) (s : State) : List Nat :=
  if breaksSwapDiscipline s a then
    if s.races.contains a then s.races else a :: s.races
  else s.races.filter fun x => x != a

/-- The host stores one byte to its memory. Inside the register window the platform gives the access to the FSE (R233),
and a byte access raises Err(7) (R50, log 11). -/
def hostStore (address : BitVec 24) (value : Byte) (s : State) : State :=
  if inRegisterWindow s.cfg address.toNat then raiseError .badacc s
  else
    { s with
      mem := s.mem.store address.toNat value
      races := racesAfterStore address.toNat s }

/-- Reset (R230): every element of the FSE at its reset value. Configuration, host memory and the inputs still to come
are not FSE state and stay (R20, R230, log 23). -/
def resetFse (s : State) : State :=
  { State.reset with
    cfg := s.cfg, mem := s.mem, races := s.races, freeCtr := s.freeCtr, inputs := s.inputs }

/-- One input, already taken from the list. Pulses presented together: VINT now, HINT as the very next input (R204). -/
def takeInput (i : Input) (s : State) : Host.Outcome State Fault Refusal :=
  match i with
  | .hostWrite offset width value => hostWrite offset width value s
  | .hostRead offset width => .next (hostRead offset width s)
  | .vint => exec .vint s
  | .hint => exec .hint s
  | .vintWithHint => exec .vint { s with inputs := .hint :: s.inputs }
  | .reset => .next (resetFse s)
  | .hostStore address value => .next (hostStore address value s)

/-! ## Words placed from outside -/

/-- A placed word runs as its output row (log 15). -/
def runPortWord (e : PortEvent) (s : State) : Host.Outcome State Fault Refusal :=
  match decode s.cfg (.port e) with
  | some i => exec i s
  | none => .refused .unknownPortWord

/-- Place the low `nbits` bits of `w`, as spec/opcode_table.json numbers them, before everything else: a command word is a
32-bit host write to CMD (R80, R91, log 3); a 16-bit word is an output row, which no input carries (log 15). -/
def placeTableWord (nbits w : Nat) (s : State) : State :=
  if nbits = 16 then { s with placedWord := some (.ctrl16 (BitVec.ofNat 16 w)) }
  else { s with placedWord := none, inputs := .hostWrite 0x00#8 .bits32 (BitVec.ofNat 32 w) :: s.inputs }

end Sys2Proof.Machine
end

