-- ==== Sys2Proof/Machine/Step.lean ====
section
/-! DEFINITION. One transition of the FSE (R12, R200). -/

namespace Sys2Proof.Machine

/-- Take the next input. Without one the FSE takes no step (R200, log 4); an ill-formed configuration has no meaning
(R7, log 5). The first case is the model's own: it runs a word that `withFetchWord` placed (log 15). -/
def step (s : State) : Host.Outcome State Fault Refusal :=
  match s.placedWord, s.inputs with
  | some e, _ => if s.cfg.wf then runPortWord e { s with placedWord := none } else .refused .illFormedConfig
  | none, [] => .refused .noInput
  | none, i :: rest => if s.cfg.wf then takeInput i { s with inputs := rest } else .refused .illFormedConfig

/-- The FSE fetches nothing (R21): a command word becomes the next input (log 3), an output word the placed word (log 15). -/
def State.withFetchWord (s : State) (nbits w : Nat) : State :=
  placeTableWord nbits w s

end Sys2Proof.Machine
end

