-- ==== Sys2Proof/Safety.lean ====
section
/-! DEFINITION. What claims call a safe run: the invariants of R51 with those of R26, R35, R36, R41 and R130, the error-free
verdict of R209, and the host's obligations on the palette buffers (R236, R240). -/

namespace Sys2Proof.Machine

/-- The verdict of R209: no error has been raised since reset. -/
def State.errorFree (s : State) : Bool :=
  s.errmask == 0#8

/-- Every state a run reaches (R51), with what R51 rests on. -/
structure Inv (s : State) : Prop where
  /-- The configuration is well-formed (R7). -/
  wf : s.cfg.wf = true
  /-- Only inputs move the FSE (R200): nothing has been placed beside them (log 15). -/
  placed : s.placedWord = none
  /-- Host memory keeps its canonical form (log 8). -/
  mem : s.mem.wf
  /-- R51 (1), R38. -/
  parity : s.parity = s.lidx.getLsbD 0
  /-- R51 (2), R29. -/
  strips : s.hstrip.toNat ≤ s.cfg.numStrips
  /-- R51 (3), R30. -/
  pointer : s.seeded = true →
    s.hptr.toNat = (renderBase s).toNat + s.hstrip.toNat * s.cfg.stripStride
  /-- R51 (4), R32. -/
  resting : s.hstate ≠ .swapping
  /-- R51 (5). -/
  enables : s.seeded = false → s.gie = false ∨ (s.vie = false ∧ s.hie = false)
  /-- R51 (6). -/
  frame : s.started = true → s.lidx.toNat < s.cfg.numFrames
  /-- R51 (7). -/
  slots : ∀ k, (slotOf k s).ready = true →
    ∃ addr dest len, inEncoderDomain addr len = true ∧ (slotOf k s).op = encodeOp addr dest len
  /-- R26: SEED guarantees the shape of the buffers. -/
  buffers : s.seeded = true → buffersFit s.bufA s.bufB s.cfg.bufferBytes = true
  /-- R130: TOGGLE is the parity of HSTRIP. -/
  pair : s.toggle = s.hstrip.getLsbD 0
  /-- R35: PT is a supported tick, PI its exact index, PA its remainder. -/
  deltaTick : s.pt.toNat < s.cfg.maxTicks
  deltaIndex : s.pidx.toNat = exactIndex s.cfg s.pt.toNat
  deltaRemainder : s.pa.toNat = s.pt.toNat * s.cfg.targetRate % s.cfg.refresh
  /-- R36, R150: once started, every supported entry of the LUT is the exact index. -/
  lut : s.started = true →
    ∀ t, t < s.cfg.maxTicks → (lutEntry s t).toNat = exactIndex s.cfg t
  /-- R41: FIRSTERR is 0 exactly when no error is recorded, else it names a recorded code. -/
  noError : s.firsterr = 0#8 → s.errmask = 0#8
  firstError : s.firsterr ≠ 0#8 →
    s.firsterr.toNat ≤ 8 ∧ s.errmask.getLsbD (s.firsterr.toNat - 1) = true

/-- R236: once seeded, neither palette buffer touches the register window. -/
def State.buffersOutsideWindow (s : State) : Prop :=
  s.seeded = true → ∀ a, inRegisterWindow s.cfg a = true →
    inBuffer s.cfg s.bufA a = false ∧ inBuffer s.cfg s.bufB a = false

/-- R240: the next input is no store that breaks the buffer-swap discipline, as `breaksSwapDiscipline` reads it (log 26). -/
def State.nextObeysSwapDiscipline (s : State) : Prop :=
  ∀ address value rest, s.inputs = .hostStore address value :: rest →
    breaksSwapDiscipline s address.toNat = false

/-- A state some run reaches: a start is the reset state under a well-formed configuration, with any host memory and any
inputs to come (R201, R230), and every step leads on. -/
inductive Reachable : State → Prop where
  | start (c : Config) (m : Memory) (is : List Input) (hc : c.wf = true) (hm : m.wf) :
      Reachable { State.reset with cfg := c, mem := m, inputs := is }
  | next {s s' : State} (hs : Reachable s) (h : step s = .next s') : Reachable s'

end Sys2Proof.Machine
end

