-- ==== Sys2Proof/Certificates/Slice0/Obligations.lean ====
section
/-! DEFINITION. The statements about the model, each in the words of the rules of spec/ and in arithmetic of its own. -/

open Sys2Proof Sys2Proof.Machine

/-! ## The vocabulary of the statements -/

namespace Sys2Proof.Spec

/-- R207, in bits: exactly the code's bit joins ERRMASK, FIRSTERR keeps the first code, nothing else changes. -/
def RecordsError (n : Nat) (s t : State) : Prop :=
  (∀ b, b < 8 → t.errmask.getLsbD b = (s.errmask.getLsbD b || decide (b + 1 = n)))
    ∧ t.firsterr.toNat = (if s.firsterr = 0#8 then n else s.firsterr.toNat)
    ∧ t = { s with errmask := t.errmask, firsterr := t.firsterr }

/-- The instruction answers a next state in which only the error n is recorded. -/
def OnlyRaises (i : Instr) (n : Nat) (s : State) : Prop :=
  ∃ t, exec i s = .next t ∧ RecordsError n s t

/-- The encoder domain of R101, by division. -/
def EncoderDomain (addr len : Nat) : Prop :=
  addr % 2 = 0 ∧ 1 ≤ len ∧ len ≤ 65535 ∧ addr + 2 * len ≤ 16777216
    ∧ addr / 131072 = (addr + 2 * len - 1) / 131072

/-- The six words of R84 and R100, by sums and remainders. -/
def formatted (addr len : Nat) (dest : Word) : DmaOp where
  lenL := BitVec.ofNat 16 (0x9300 + len % 256)
  lenH := BitVec.ofNat 16 (0x9400 + len / 256 % 256)
  addrL := BitVec.ofNat 16 (0x9500 + addr / 2 % 256)
  addrM := BitVec.ofNat 16 (0x9600 + addr / 512 % 256)
  addrH := BitVec.ofNat 16 (0x9700 + addr / 131072 % 128)
  dest := dest

/-- The six events of an op, in the order of R102. -/
def sixEvents (op : DmaOp) : List PortEvent :=
  [.ctrl16 op.lenL, .ctrl16 op.lenH, .ctrl16 op.addrL, .ctrl16 op.addrM, .ctrl16 op.addrH, .ctrl32 op.dest]

/-- What a flush emits for one slot (R106). -/
def slotEvents (v : DmaSlot) : List PortEvent :=
  if v.ready = true then sixEvents v.op else []

/-- What a flush counts for one slot, in bytes (R107, R93). -/
def slotBytes (v : DmaSlot) : Nat :=
  if v.ready = true then 2 * (v.op.lenH.toNat % 256 * 256 + v.op.lenL.toNat % 256) else 0

/-- The conditions R121 puts on one buffer of n bytes, by division. -/
def BufferFits (base n : Nat) : Prop :=
  base % 2 = 0 ∧ base + n - 1 ≤ 16777215 ∧ base / 131072 = (base + n - 1) / 131072

/-- The conditions R121 puts on both buffers. -/
def BuffersFit (a b n : Nat) : Prop :=
  BufferFits a n ∧ BufferFits b n ∧ (a + n ≤ b ∨ b + n ≤ a)

/-- R175 without its computation: under STEP the index moves by one; under DROP the next index is the greatest index that
is an odd distance above the current one and not above the target max(raw, cur + 1). -/
def IsNextIndex (policy : DropPolicy) (cur raw next : Nat) : Prop :=
  match policy with
  | .step => next = cur + 1
  | .drop => cur < next ∧ (next - cur) % 2 = 1 ∧ next ≤ max raw (cur + 1) ∧ max raw (cur + 1) ≤ next + 1

/-- The sub-ranges of R128. -/
def bursts : Split → List (Nat × Nat)
  | .one => [(0, 8)]
  | .two => [(0, 4), (4, 4)]
  | .three => [(0, 3), (3, 3), (6, 2)]

/-- The byte a read of host memory finds at an address that neither races nor lies in the register window. -/
def storedByte (s : State) (a : Nat) : Byte :=
  (s.mem.lookup a).getD (Config.unwrittenByte a)

/-- An address whose byte the spec promises: no store raced there (R64), and it is not the register window (R236). -/
def Settled (s : State) (a : Nat) : Prop :=
  a ∉ s.races ∧ inRegisterWindow s.cfg a = false

/-- Byte j of four 32-bit words, the first byte in bits 31:24 of the first word (R62). -/
def byteOf (ws : List Word) (j : Nat) : Byte :=
  (ws.getD (j / 4) 0#32).extractLsb' (24 - 8 * (j % 4)) 8

/-- The events of one strip write from a host address to a color-memory address (R125): on the CPU path the command and
four data words that carry the sixteen bytes, where a byte that is not settled may have any value; on the DMA path six
events for each burst. -/
def IsStrip (s : State) (addr dst : Nat) (es : List PortEvent) : Prop :=
  match s.cfg.path with
  | .cpu => ∃ ws : List Word, ws.length = 4
      ∧ es = .ctrl32 (cramCommandWord s.cfg dst false) :: ws.map .data32
      ∧ ∀ j, j < 16 → Settled s (addr + j) → byteOf ws j = storedByte s (addr + j)
  | .dma split => es = (bursts split).flatMap fun r =>
      sixEvents (formatted (addr + 2 * r.1) r.2 (cramCommandWord s.cfg (dst + 2 * r.1) true))

/-- The pair strip k goes to (R122, R130). -/
def pairOf (c : Config) (k : Nat) : Nat :=
  if k % 2 = 0 then c.pairAddr0 else c.pairAddr1

/-- The events of the first k strips of a buffer, one strip after the other (R123). -/
def AreFirstStrips (s : State) (base : Nat) : Nat → List PortEvent → Prop
  | 0, es => es = []
  | k + 1, es => ∃ front last, es = front ++ last ∧ AreFirstStrips s base k front
      ∧ IsStrip s (base + k * s.cfg.stripStride) (pairOf s.cfg k) last

/-- The Render buffer the next VINT service shows (R171). -/
def nextRenderBase (s : State) : Word :=
  if s.swapPending = true then unpackBase s else renderBase s

/-- A number of HINT pulses, one after the other. -/
def hints : Nat → State → Option State
  | 0, s => some s
  | k + 1, s => match exec .hint s with
    | .next t => hints k t
    | _ => none

/-- The counter value of the j-th HINT of a frame, P_LINE_OFFSET + j * H, lies in the window of the standard (W5, R129). -/
def lineInWindow (c : Config) (j : Nat) : Bool :=
  decide ((c.windowOf c.std).first.toNat ≤ c.lineOffset.toNat + j * c.stripHeight)
    && decide (c.lineOffset.toNat + j * c.stripHeight ≤ (c.windowOf c.std).last.toNat)

/-- Every j whose counter value lies in the window is at most k: at least j_max HINTs have arrived (R129). -/
def WindowPassed (c : Config) (k : Nat) : Prop :=
  ∀ j, 1 ≤ j → lineInWindow c j = true → j ≤ k

/-- The strips the first k HINTs of a frame write: one for each counter value in the window (R129). -/
def windowCount (c : Config) : Nat → Nat
  | 0 => 0
  | k + 1 => windowCount c k + if lineInWindow c (k + 1) then 1 else 0

/-- The events of a frame in which k HINTs are serviced (R123, R127): the pre-loaded strips, then for each HINT the next
strip between the display words where its counter value lies in the window, and nothing where it does not. -/
def AreFrameEvents (s : State) (base : Nat) : Nat → List PortEvent → Prop
  | 0, es => AreFirstStrips s base s.cfg.preload es
  | k + 1, es => ∃ front last, es = front ++ last ∧ AreFrameEvents s base k front
      ∧ (lineInWindow s.cfg (k + 1) = false → last = [])
      ∧ (lineInWindow s.cfg (k + 1) = true → ∃ strip, last = .ctrl16 s.cfg.dispOff :: strip ++ [.ctrl16 s.cfg.dispOn]
        ∧ IsStrip s (base + (s.cfg.preload + windowCount s.cfg k) * s.cfg.stripStride)
          (pairOf s.cfg (s.cfg.preload + windowCount s.cfg k)) strip)

/-- STATUS by the sum of its bits (R46). -/
def statusValue (s : State) : Nat :=
  s.gie.toNat + 2 * s.vie.toNat + 4 * s.hie.toNat + 8 * s.seeded.toNat + 16 * s.started.toNat
    + 32 * s.swapPending.toNat + 64 * s.rsel.toNat + 128 * s.parity.toNat + 256 * s.done.toNat
    + 2048 * (match s.hstate with | .idle => 0 | .armed => 1 | .swapping => 2)
    + 8192 * s.toggle.toNat
    + 16384 * (match s.strat with | .exact => 0 | .reciprocal => 1 | .delta => 2 | .table => 3)
    + 65536 * (if s.errmask = 0#8 then 0 else 1)

/-- The seven registers of a slot at its first offset (R48). -/
def slotMap (first : Nat) (v : DmaSlot) : List (Nat × Nat) :=
  [(first, v.ready.toNat), (first + 0x04, v.op.lenL.toNat), (first + 0x08, v.op.lenH.toNat),
   (first + 0x0C, v.op.addrL.toNat), (first + 0x10, v.op.addrM.toNat), (first + 0x14, v.op.addrH.toNat),
   (first + 0x18, v.op.dest.toNat)]

/-- The register map of R48: each offset with its read value. -/
def registerMap (s : State) : List (Nat × Nat) :=
  [(0x00, 0), (0x04, s.arg0.toNat), (0x08, s.arg1.toNat), (0x0C, s.arg2.toNat), (0x10, s.res.toNat),
   (0x14, statusValue s), (0x18, s.firsterr.toNat * 256 + s.errmask.toNat), (0x1C, s.tick.toNat),
   (0x20, s.lidx.toNat), (0x24, s.bufA.toNat), (0x28, s.bufB.toNat), (0x2C, s.hptr.toNat),
   (0x30, s.hline.toNat), (0x34, s.hstrip.toNat), (0x38, s.dbgBudget.toNat),
   (0x3C, s.dbgVlost.toNat * 65536 + s.dbgHlost.toNat)]
    ++ slotMap 0x40 s.slot0 ++ slotMap 0x60 s.slot1 ++ slotMap 0x80 s.slot2

/-- The words of the opcode map (R83), without the slot 3 of ENQ (R90). -/
def InOpcodeMap (w : Nat) : Prop :=
  (0x01000000 ≤ w ∧ w ≤ 0x01000007) ∨ w = 0x02000000 ∨ (0x03000000 ≤ w ∧ w ≤ 0x03000002) ∨ w = 0x04000000
    ∨ w = 0x05000000 ∨ (0x06000000 ≤ w ∧ w ≤ 0x06000003) ∨ w = 0x07000000 ∨ w = 0x08000000

/-- An access R49 and R50 call bad: not 32 bits, or not at a multiple of 4. -/
def BadAccess (offset : Byte) (width : AccessWidth) : Prop :=
  width ≠ .bits32 ∨ offset.toNat % 4 ≠ 0

/-- The reserved offsets of R48. -/
def Reserved (offset : Byte) : Prop :=
  offset = 0x5C#8 ∨ offset = 0x7C#8 ∨ offset = 0x9C#8 ∨ 0xA0 ≤ offset.toNat

end Sys2Proof.Spec

open Sys2Proof.Spec

/-! ## Encodings -/

/-- Words written out from R83 and R84 read as the instructions they stand for. -/
def Obligations.WordsReadAsTheirRows : Prop :=
  decodeTableWord 32 0x01000005 = some (.intctl true false true)
    ∧ decodeTableWord 32 0x03000002 = some (.enq .palette)
    ∧ decodeTableWord 32 0x03000003 = some (.illegal 0x03000003#32)
    ∧ decodeTableWord 32 0x06000001 = some (.start .reciprocal)
    ∧ decodeTableWord 32 0x08000000 = some .adv
    ∧ decodeTableWord 16 0x9412 = some (.outLenh 0x12#8)
    ∧ decodeTableWord 16 0x977F = some (.outAddrh 0x7F#7)

/-- Every instruction whose word belongs to its row alone reads back from its signal, with every operand. -/
def Obligations.DecodeOfEncodeIsTheInstruction : Prop :=
  ∀ (c : Config) (i : Instr), i.wf c = true → decode c (encode c i) = some i

/-- Every command word, and every control-port word that reads as a row, is the encoding of what it reads as: no bit is
dropped or ignored. For command words that is the last sentence of R90 (no reserved-but-ignored encoding), which the spec
marks as its own inference (derived from R80 and R82). -/
def Obligations.EncodeOfDecodeIsTheWord : Prop :=
  (∀ (c : Config) (w : Word), encode c (decodeCommand w) = .cmd w)
    ∧ ∀ (c : Config) (e : PortEvent) (i : Instr), decode c (.port e) = some i → encode c i = .port e

/-- R90: a word that is none of the words of the opcode map (R83) reads as illegal, and writing it to CMD raises Err(1) with
no other effect; every other word is one command.
The spec marks the last sentence of R90, on which the last clause rests, as its own inference (derived from R80 and R82). -/
def Obligations.IllegalWordsAreTheOthers : Prop :=
  ∀ w : Word,
    (¬ InOpcodeMap w.toNat → decodeCommand w = .illegal w ∧ ∀ s, OnlyRaises (decodeCommand w) 1 s)
    ∧ (InOpcodeMap w.toNat → ∀ x, decodeCommand w ≠ .illegal x)

/-- R88: the default color-memory command of the 128 byte addresses. The default formula is the spec's own default from
general knowledge (log 18). -/
def Obligations.DefaultCramCommandWord : Prop :=
  ∀ (c : Config) (a : Nat) (dma : Bool), c.cramCommand = .vdpDefault → a < 128 →
    (cramCommandWord c a dma).toNat = 0xC0000000 + a * 65536 + if dma then 128 else 0

/-- The output rows: each appends its own event, with the word of R84 to R88, and changes nothing else. That a row of the
output words is run as an instruction is the model's choice (log 15). -/
def Obligations.OutputRowsAppendTheirWord : Prop :=
  ∀ s : State,
    (∀ f : Byte,
      exec (.outLenl f) s = .next { s with trace := s.trace ++ [.ctrl16 (BitVec.ofNat 16 (0x9300 + f.toNat))] }
      ∧ exec (.outLenh f) s = .next { s with trace := s.trace ++ [.ctrl16 (BitVec.ofNat 16 (0x9400 + f.toNat))] }
      ∧ exec (.outAddrl f) s = .next { s with trace := s.trace ++ [.ctrl16 (BitVec.ofNat 16 (0x9500 + f.toNat))] }
      ∧ exec (.outAddrm f) s = .next { s with trace := s.trace ++ [.ctrl16 (BitVec.ofNat 16 (0x9600 + f.toNat))] })
    ∧ (∀ f : BitVec 7,
      exec (.outAddrh f) s = .next { s with trace := s.trace ++ [.ctrl16 (BitVec.ofNat 16 (0x9700 + f.toNat))] })
    ∧ (∀ w : Word, exec (.outTrigger w) s = .next { s with trace := s.trace ++ [.ctrl32 w] })
    ∧ (∀ (a : BitVec 7) (dma : Bool),
      exec (.outCramcmd a dma) s
        = .next { s with trace := s.trace ++ [.ctrl32 (cramCommandWord s.cfg a.toNat dma)] })
    ∧ exec .outDispOff s = .next { s with trace := s.trace ++ [.ctrl16 s.cfg.dispOff] }
    ∧ exec .outDispOn s = .next { s with trace := s.trace ++ [.ctrl16 s.cfg.dispOn] }
    ∧ (∀ x y : Half, exec (.outColor2 x y) s
        = .next { s with trace := s.trace ++ [.data32 (BitVec.ofNat 32 (x.toNat * 65536 + y.toNat))] })

/-! ## The step -/

/-- A step runs the instruction of its input, on the state without that input: the command of a word written to CMD or a
pulse. A word that `withFetchWord` placed runs as its row, the model's own case (log 15). -/
def Obligations.StepRunsTheInstructionOfItsInput : Prop :=
  ∀ s : State, s.cfg.wf = true →
    (∀ rest : List Input, s.placedWord = none →
      (∀ w : Word, s.inputs = .hostWrite 0x00#8 .bits32 w :: rest →
        step s = exec (decodeCommand w) { s with inputs := rest })
      ∧ (s.inputs = .vint :: rest → step s = exec .vint { s with inputs := rest })
      ∧ (s.inputs = .hint :: rest → step s = exec .hint { s with inputs := rest }))
    ∧ (∀ (e : PortEvent) (i : Instr), s.placedWord = some e → decode s.cfg (.port e) = some i →
      step s = exec i { s with placedWord := none })

/-- R204: pulses presented together are the VINT transition and then, as the very next step, the HINT transition. -/
def Obligations.PresentedPulsesRunVintThenHint : Prop :=
  ∀ (s : State) (rest : List Input), Inv s → s.inputs = .vintWithHint :: rest →
    ∃ t, step s = .next t ∧ exec .vint { s with inputs := .hint :: rest } = .next t
      ∧ step t = exec .hint { t with inputs := rest }

/-- Where the model stops: it refuses a step without an input (R200), under an ill-formed configuration (R7), or on a
placed word that is no row; it faults only past the end of host memory. The last two stops are the model's own (log 7,
log 16). -/
def Obligations.StepStopsOnlyForItsReasons : Prop :=
  ∀ s : State,
    (∀ r, step s = .refused r →
      (r = .noInput ∧ s.placedWord = none ∧ s.inputs = []) ∨ (r = .illFormedConfig ∧ s.cfg.wf = false)
        ∨ (r = .unknownPortWord ∧ ∃ e, s.placedWord = some e ∧ decode s.cfg (.port e) = none))
    ∧ (s.placedWord = none → s.inputs = [] → step s = .refused .noInput)
    ∧ (s.placedWord ≠ none ∨ s.inputs ≠ [] → s.cfg.wf = false → step s = .refused .illFormedConfig)
    ∧ (∀ f, step s = .fault f → ¬ Inv s)

/-- R217: the FSE is always able to take the next input, and no service or command is left without a next state. -/
def Obligations.EveryInputCompletes : Prop :=
  ∀ (s : State) (i : Input) (rest : List Input), Inv s → s.inputs = i :: rest →
    ∃ t, step s = .next t ∧ Inv t

/-! ## Invariants -/

/-- The invariants hold at reset. -/
def Obligations.InvariantsHoldAtReset : Prop :=
  Inv State.reset

/-- Every step keeps the invariants, from every state that has them. -/
def Obligations.StepKeepsTheInvariants : Prop :=
  ∀ s t : State, Inv s → step s = .next t → Inv t

/-- R51: the seven invariants of every reachable state.
The spec marks R51 as its own inference (derived). -/
def Obligations.ReachableStatesSatisfyR51 : Prop :=
  ∀ s : State, Reachable s →
    (s.parity = s.lidx.getLsbD 0)
    ∧ (s.hstrip.toNat ≤ s.cfg.numStrips)
    ∧ (s.seeded = true → s.hptr.toNat = (renderBase s).toNat + s.hstrip.toNat * s.cfg.stripStride)
    ∧ (s.hstate = .idle ∨ s.hstate = .armed)
    ∧ (s.seeded = false → s.gie = false ∨ (s.vie = false ∧ s.hie = false))
    ∧ (s.started = true → s.lidx.toNat < s.cfg.numFrames)
    ∧ (∀ v, v ∈ [s.slot0, s.slot1, s.slot2] → v.ready = true →
      ∃ (addr len : Nat) (dest : Word), EncoderDomain addr len ∧ v.op = formatted addr len dest)

/-! ## Errors -/

/-- R41: no input but reset clears a bit of ERRMASK or changes a FIRSTERR that names an error. -/
def Obligations.ErrorRecordLastsUntilReset : Prop :=
  ∀ (s t : State) (i : Input) (rest : List Input), s.placedWord = none → s.inputs = i :: rest → i ≠ .reset →
    step s = .next t →
    (∀ b, s.errmask.getLsbD b = true → t.errmask.getLsbD b = true)
    ∧ (s.firsterr ≠ 0#8 → t.firsterr = s.firsterr)

/-- R206, R202, R203: a pulse raises no error. -/
def Obligations.ServicesRaiseNoError : Prop :=
  ∀ (s t : State) (rest : List Input), s.placedWord = none →
    (s.inputs = .vint :: rest ∨ s.inputs = .hint :: rest ∨ s.inputs = .vintWithHint :: rest) → step s = .next t →
    t.errmask = s.errmask ∧ t.firsterr = s.firsterr

/-- R11, R207: where an instruction raises an error it has no other effect, and it raises one error of the eight. -/
def Obligations.RaisedErrorsHaveNoOtherEffect : Prop :=
  ∀ (i : Instr) (s t : State), exec i s = .next t → (t.errmask ≠ s.errmask ∨ t.firsterr ≠ s.firsterr) →
    ∃ n, 1 ≤ n ∧ n ≤ 8 ∧ RecordsError n s t

/-- R90: an illegal word raises Err(1) with no other effect. -/
def Obligations.IllegalWordRaisesErrorOne : Prop :=
  ∀ (w : Word) (s : State), OnlyRaises (.illegal w) 1 s

/-! ## The DMA queue -/

/-- R103: inside the encoder domain ENQ stores the formatted transfer in its slot and marks it ready. -/
def Obligations.EnqStoresTheFormattedTransfer : Prop :=
  ∀ s : State, EncoderDomain s.arg0.toNat s.arg2.toNat →
    let v : DmaSlot := ⟨true, formatted s.arg0.toNat s.arg2.toNat s.arg1⟩
    exec (.enq .tileset) s = .next { s with slot0 := v }
      ∧ exec (.enq .tilemap) s = .next { s with slot1 := v }
      ∧ exec (.enq .palette) s = .next { s with slot2 := v }

/-- R101, R103: outside the encoder domain ENQ raises Err(2) and leaves its slot. -/
def Obligations.EnqOutsideTheDomainRaisesErrorTwo : Prop :=
  ∀ (k : Slot) (s : State), ¬ EncoderDomain s.arg0.toNat s.arg2.toNat → OnlyRaises (.enq k) 2 s

/-- R109: decoding the formatted words recovers the triple.
The spec marks R109 as its own inference (derived). -/
def Obligations.TransferSurvivesItsFormattedWords : Prop :=
  ∀ addr dest len : Word, EncoderDomain addr.toNat len.toNat →
    opAddress (encodeOp addr dest len) = addr ∧ (encodeOp addr dest len).dest = dest
      ∧ opLength (encodeOp addr dest len) = len.toNat

/-- R105 to R108: a flush of a queue with a ready slot emits the ready ops in slot order, inside the display words where
they are configured, marks the slots not ready, keeps their ops, counts an over-budget flush, and changes nothing else. -/
def Obligations.FlushEmitsTheReadySlotsInOrder : Prop :=
  ∀ s : State, (s.slot0.ready = true ∨ s.slot1.ready = true ∨ s.slot2.ready = true) →
    exec .flush s = .next { s with
      trace := s.trace
        ++ ((if s.cfg.flushBlank = true then [.ctrl16 s.cfg.dispOff] else [])
          ++ slotEvents s.slot0 ++ slotEvents s.slot1 ++ slotEvents s.slot2
          ++ (if s.cfg.flushBlank = true then [.ctrl16 s.cfg.dispOn] else []))
      slot0 := { s.slot0 with ready := false }
      slot1 := { s.slot1 with ready := false }
      slot2 := { s.slot2 with ready := false }
      dbgBudget :=
        if s.cfg.flushBudget.toNat < slotBytes s.slot0 + slotBytes s.slot1 + slotBytes s.slot2 then
          BitVec.ofNat 32 (min (s.dbgBudget.toNat + 1) 4294967295)
        else s.dbgBudget }

/-- R110: a FLUSH with no slot ready appends no event and changes no state; so does a second FLUSH after any first.
The spec marks R110 as its own inference (derived). -/
def Obligations.FlushOfAnEmptyQueueDoesNothing : Prop :=
  (∀ s : State, s.slot0.ready = false → s.slot1.ready = false → s.slot2.ready = false → exec .flush s = .next s)
    ∧ ∀ s : State, ∃ t, exec .flush s = .next t ∧ exec .flush t = .next t

/-! ## The palette cycler -/

/-- R121: with GIE = 0 and two buffers that fit, SEED installs them, rewinds the cycler and changes nothing else. That it
also settles the races of the old buffers is the model's reading of R232 (log 10). -/
def Obligations.SeedInstallsBothBuffers : Prop :=
  ∀ s : State, s.gie = false →
    BuffersFit s.arg0.toNat s.arg1.toNat (s.cfg.numStrips * s.cfg.stripStride) →
    exec .seed s = .next { s with
      bufA := s.arg0, bufB := s.arg1, rsel := false, swapPending := false
      hline := s.cfg.lineOffset, hstrip := 0, hptr := s.arg0, toggle := false, hstate := .idle
      seeded := true, races := [] }

/-- R121, R208: SEED with GIE = 1 raises Err(4) whatever the buffers; with GIE = 0 a buffer that does not fit raises
Err(3). -/
def Obligations.SeedRaisesLiveBeforeBuf : Prop :=
  ∀ s : State,
    (s.gie = true → OnlyRaises .seed 4 s)
    ∧ (s.gie = false →
      ¬ BuffersFit s.arg0.toNat s.arg1.toNat (s.cfg.numStrips * s.cfg.stripStride) → OnlyRaises .seed 3 s)

/-- R202, R123, R124, R171: an enabled VINT service counts the tick, makes a pending swap, rewinds to the Render buffer,
writes the pre-loaded strips without a display word, and changes nothing else but the model's draw counter. -/
def Obligations.VintServiceBeginsTheFrame : Prop :=
  ∀ s : State, Inv s → s.gie = true → s.vie = true →
    ∃ t es, exec .vint s = .next t
      ∧ AreFirstStrips s (nextRenderBase s).toNat s.cfg.preload es
      ∧ t.hptr.toNat = (nextRenderBase s).toNat + s.cfg.preload * s.cfg.stripStride
      ∧ t = { s with
          tick := BitVec.ofNat 32 (s.tick.toNat + 1)
          rsel := if s.swapPending = true then !s.rsel else s.rsel
          swapPending := false, hline := s.cfg.lineOffset, hstrip := BitVec.ofNat 8 s.cfg.preload
          hptr := t.hptr, toggle := decide (s.cfg.preload % 2 = 1), hstate := .idle
          trace := s.trace ++ es, freeCtr := t.freeCtr }

/-- R202, R203: a masked pulse runs no service: VINT still counts the tick, and each counts its lost pulse, saturating. -/
def Obligations.MaskedPulsesAreOnlyCounted : Prop :=
  ∀ s : State,
    (s.gie = false ∨ s.vie = false →
      exec .vint s = .next { s with
        tick := BitVec.ofNat 32 (s.tick.toNat + 1)
        dbgVlost := BitVec.ofNat 16 (min (s.dbgVlost.toNat + 1) 65535) })
    ∧ (s.gie = false ∨ s.hie = false →
      exec .hint s = .next { s with dbgHlost := BitVec.ofNat 16 (min (s.dbgHlost.toNat + 1) 65535) })

/-- R127, R125, R126: an enabled HINT whose new counter value lies in the window, with a strip left and its sixteen bytes
inside host memory, writes one strip from HPTR to the pair TOGGLE selects between the two display words, and advances. -/
def Obligations.HintWritesOneStripInTheWindow : Prop :=
  ∀ s : State, s.gie = true → s.hie = true →
    (s.cfg.windowOf s.cfg.std).first.toNat ≤ (s.hline.toNat + s.cfg.stripHeight) % 65536 →
    (s.hline.toNat + s.cfg.stripHeight) % 65536 ≤ (s.cfg.windowOf s.cfg.std).last.toNat →
    s.hstrip.toNat < s.cfg.numStrips → s.hptr.toNat + 15 ≤ 16777215 →
    ∃ t es, exec .hint s = .next t
      ∧ IsStrip s s.hptr.toNat (if s.toggle = true then s.cfg.pairAddr1 else s.cfg.pairAddr0) es
      ∧ t = { s with
          hline := BitVec.ofNat 16 (s.hline.toNat + s.cfg.stripHeight)
          hstrip := BitVec.ofNat 8 (s.hstrip.toNat + 1)
          hptr := BitVec.ofNat 32 (s.hptr.toNat + s.cfg.stripStride)
          toggle := !s.toggle, hstate := .armed
          trace := s.trace ++ (.ctrl16 s.cfg.dispOff :: es ++ [.ctrl16 s.cfg.dispOn]), freeCtr := t.freeCtr }

/-- R127: an enabled HINT whose new counter value lies outside the window, or with every strip written, only counts the
line and rests. -/
def Obligations.HintOutsideTheWindowOnlyCounts : Prop :=
  ∀ s : State, s.gie = true → s.hie = true →
    ((s.hline.toNat + s.cfg.stripHeight) % 65536 < (s.cfg.windowOf s.cfg.std).first.toNat
      ∨ (s.cfg.windowOf s.cfg.std).last.toNat < (s.hline.toNat + s.cfg.stripHeight) % 65536
      ∨ s.cfg.numStrips ≤ s.hstrip.toNat) →
    exec .hint s = .next { s with
      hline := BitVec.ofNat 16 (s.hline.toNat + s.cfg.stripHeight), hstate := .idle }

/-- R130: in every frame strip k goes to pair k mod 2, the pre-loaded strips at the VINT and strip HSTRIP at a HINT that
writes one; two strips written one after the other never go to the same pair.
The spec marks R130 as its own inference (derived). -/
def Obligations.StripsAlternateBetweenThePairs : Prop :=
  ∀ s t : State, Inv s →
    (∀ k, pairOf s.cfg k ≠ pairOf s.cfg (k + 1))
    ∧ (s.gie = true → s.vie = true → exec .vint s = .next t →
      t.hstrip.toNat = s.cfg.preload
      ∧ ∃ es, AreFirstStrips s (nextRenderBase s).toNat s.cfg.preload es ∧ t.trace = s.trace ++ es)
    ∧ (s.gie = true → s.hie = true → exec .hint s = .next t → t.hstrip ≠ s.hstrip →
      t.hstrip.toNat = s.hstrip.toNat + 1
      ∧ ∃ es, IsStrip s ((renderBase s).toNat + s.hstrip.toNat * s.cfg.stripStride) (pairOf s.cfg s.hstrip.toNat) es
        ∧ t.trace = s.trace ++ (.ctrl16 s.cfg.dispOff :: es ++ [.ctrl16 s.cfg.dispOn]))

/-- R129, R130: in a frame in which every HINT is serviced, the k-th HINT leaves the counter at P_LINE_OFFSET + k * H, and
strip n of the Render buffer is written to pair n mod 2, in index order: the pre-loaded strips by the VINT, then one for
each counter value in the window. Once the window has been passed, exactly P_NUM_STRIPS - P_PRELOAD HINTs have written and
every strip has been written once; no later HINT writes any.
The spec marks R129 as its own inference (derived). -/
def Obligations.EveryStripIsWrittenOncePerFrame : Prop :=
  ∀ s s0 : State, Inv s → s.gie = true → s.vie = true → s.hie = true → exec .vint s = .next s0 →
    (∀ std, (s.cfg.windowOf std).first.toNat < (s.cfg.windowOf std).last.toNat)
    ∧ ∀ k, ∃ t es, hints k s0 = some t
      ∧ t.hline.toNat = (s.cfg.lineOffset.toNat + k * s.cfg.stripHeight) % 65536
      ∧ t.trace = s.trace ++ es ∧ AreFrameEvents s (nextRenderBase s).toNat k es
      ∧ t.hstrip.toNat = s.cfg.preload + windowCount s.cfg k
      ∧ (WindowPassed s.cfg k →
        windowCount s.cfg k = s.cfg.numStrips - s.cfg.preload ∧ t.hstrip.toNat = s.cfg.numStrips)

/-- R131: a service reads host memory only in the Render buffer it shows: with any other memory and any other races
outside that buffer, it does the same.
The spec marks R131 as its own inference (derived from R125, R127 and R51). -/
def Obligations.ServicesReadOnlyTheRenderBuffer : Prop :=
  ∀ (s t : State) (m : Memory) (r : List Nat), Inv s →
    (s.gie = true → s.vie = true →
      (∀ a, inBuffer s.cfg (nextRenderBase s) a = true → m.lookup a = s.mem.lookup a ∧ (a ∈ r ↔ a ∈ s.races)) →
      exec .vint s = .next t → exec .vint { s with mem := m, races := r } = .next { t with mem := m, races := r })
    ∧ (s.gie = true → s.hie = true →
      (∀ a, inBuffer s.cfg (renderBase s) a = true → m.lookup a = s.mem.lookup a ∧ (a ∈ r ↔ a ∈ s.races)) →
      exec .hint s = .next t → exec .hint { s with mem := m, races := r } = .next { t with mem := m, races := r })

/-! ## The pacer -/

/-- R150: with GIE = 0 START selects the strategy, clears the pacer, the arbiter and the tick, builds the table, and
changes nothing else. -/
def Obligations.StartBeginsPlayback : Prop :=
  ∀ (k : Strategy) (s : State), s.gie = false →
    ∃ t, exec (.start k) s = .next t
      ∧ t = { s with
          strat := k, tick := 0, lidx := 0, parity := false, done := false, pt := 0, pidx := 0, pa := 0
          lut := t.lut, started := true }
      ∧ t.lut.length = s.cfg.maxTicks
      ∧ ∀ n, n < s.cfg.maxTicks →
        lutEntry t n = BitVec.ofNat 16 (n * s.cfg.targetRate / s.cfg.refresh)

/-- R157, R152 to R155: once started and for a supported tick, PACE answers by the selected strategy; only the delta
strategy writes anything but RES. -/
def Obligations.PaceAnswersByItsStrategy : Prop :=
  ∀ s : State, s.started = true → s.arg0.toNat < s.cfg.maxTicks →
    let t := s.arg0.toNat
    let acc := s.pa.toNat + (t - s.pt.toNat) * s.cfg.targetRate
    let ahead := BitVec.ofNat 16 (s.pidx.toNat + acc / s.cfg.refresh)
    let exact := t * s.cfg.targetRate / s.cfg.refresh
    (s.strat = .exact → exec .pace s = .next { s with res := BitVec.ofNat 32 exact })
    ∧ (s.strat = .reciprocal →
      exec .pace s = .next { s with res := BitVec.ofNat 32 (t * s.cfg.recipMul / 2 ^ s.cfg.recipShift) })
    ∧ (s.strat = .table → exec .pace s = .next { s with res := BitVec.ofNat 32 (lutEntry s t).toNat })
    ∧ (s.strat = .delta → t = s.pt.toNat → exec .pace s = .next { s with res := BitVec.ofNat 32 s.pidx.toNat })
    ∧ (s.strat = .delta → s.pt.toNat < t → exec .pace s = .next { s with
        res := BitVec.ofNat 32 ahead.toNat, pidx := ahead, pa := BitVec.ofNat 8 (acc % s.cfg.refresh), pt := s.arg0 })
    ∧ (s.strat = .delta → t < s.pt.toNat → exec .pace s = .next { s with
        res := BitVec.ofNat 32 (BitVec.ofNat 16 exact).toNat, pidx := BitVec.ofNat 16 exact
        pa := BitVec.ofNat 8 (t * s.cfg.targetRate % s.cfg.refresh), pt := s.arg0 })

/-- R158: on every supported tick, after any history, all four strategies answer exact division.
The spec marks R158 as its own inference (derived). -/
def Obligations.AllStrategiesAgreeWithExactDivision : Prop :=
  ∀ (s : State) (k : Strategy), Inv s → s.started = true → s.arg0.toNat < s.cfg.maxTicks →
    ∃ t, exec .pace { s with strat := k } = .next t
      ∧ t.res.toNat = s.arg0.toNat * s.cfg.targetRate / s.cfg.refresh

/-- R159: under one configuration the answer never falls when the tick does not.
The spec marks R159 as its own inference (derived from R158 and R151). -/
def Obligations.PaceIsMonotone : Prop :=
  ∀ s1 s2 t1 t2 : State, Inv s1 → Inv s2 → s1.cfg = s2.cfg → s1.started = true → s2.started = true →
    s1.arg0.toNat ≤ s2.arg0.toNat → s2.arg0.toNat < s2.cfg.maxTicks →
    exec .pace s1 = .next t1 → exec .pace s2 = .next t2 → t1.res.toNat ≤ t2.res.toNat

/-- R156, R157: every supported tick answers a frame of the video, and the last one answers the last frame.
The spec marks both sentences as its own inferences (derived from R151). -/
def Obligations.LastSupportedTickAnswersTheLastFrame : Prop :=
  ∀ s : State, Inv s → s.started = true → s.arg0.toNat < s.cfg.maxTicks →
    ∃ t, exec .pace s = .next t ∧ t.res.toNat ≤ s.cfg.numFrames - 1
      ∧ (s.arg0.toNat = s.cfg.maxTicks - 1 → t.res.toNat = s.cfg.numFrames - 1)

/-- R150, R157, R208: START with GIE = 1 raises Err(4); PACE before START raises Err(8) whatever the tick; PACE of an
unsupported tick raises Err(6). -/
def Obligations.StartAndPaceRaiseTheirErrors : Prop :=
  ∀ s : State,
    (∀ k, s.gie = true → OnlyRaises (.start k) 4 s)
    ∧ (s.started = false → OnlyRaises .pace 8 s)
    ∧ (s.started = true → s.cfg.maxTicks ≤ s.arg0.toNat → OnlyRaises .pace 6 s)

/-! ## The arbiter and the synchronizer -/

/-- R174, R175, R176: once started and not done, ADV answers the next index in RES, and commits it to LIDX and PARITY, or
sets DONE where the video ends. -/
def Obligations.AdvCommitsTheNextIndex : Prop :=
  ∀ s : State, s.started = true → s.done = false →
    ∃ n, IsNextIndex s.cfg.dropPolicy s.lidx.toNat s.arg0.toNat n
      ∧ exec .adv s = .next (
        if s.cfg.numFrames ≤ n then { s with res := BitVec.ofNat 32 n, done := true }
        else { s with res := BitVec.ofNat 32 n, lidx := BitVec.ofNat 16 n, parity := decide (n % 2 = 1) })

/-- R179: an ADV that commits moves LIDX up by an odd amount (by 1 under STEP; to max(raw, LIDX + 1) or one less under
DROP), so PARITY differs from that of the frame before; START begins with frame 0 and parity 0.
The spec marks R179 as its own inference (derived). -/
def Obligations.CommittedFramesAlternateParity : Prop :=
  (∀ s t : State, Inv s → s.started = true → s.done = false → exec .adv s = .next t → t.done = false →
    s.lidx.toNat < t.lidx.toNat ∧ (t.lidx.toNat - s.lidx.toNat) % 2 = 1 ∧ t.parity = !s.parity
      ∧ (s.cfg.dropPolicy = .step → t.lidx.toNat = s.lidx.toNat + 1)
      ∧ (s.cfg.dropPolicy = .drop → t.lidx.toNat = max s.arg0.toNat (s.lidx.toNat + 1)
        ∨ t.lidx.toNat + 1 = max s.arg0.toNat (s.lidx.toNat + 1)))
    ∧ ∀ (k : Strategy) (s : State), s.gie = false →
      ∃ t, exec (.start k) s = .next t ∧ t.lidx = 0#16 ∧ t.parity = false

/-- R174, R176: ADV before START or after the end of the video raises Err(8), and an ADV that reaches the end leaves LIDX
and PARITY at the last committed frame, after which ADV raises Err(8). -/
def Obligations.AdvStopsAtTheEndOfTheVideo : Prop :=
  (∀ s : State, s.started = false ∨ s.done = true → OnlyRaises .adv 8 s)
    ∧ ∀ s t : State, s.started = true → s.done = false → exec .adv s = .next t → t.done = true →
      t.lidx = s.lidx ∧ t.parity = s.parity ∧ OnlyRaises .adv 8 t

/-- R170: SWAPREQ sets SWAP_PENDING and changes nothing else. -/
def Obligations.SwapreqOnlyStagesTheSwap : Prop :=
  ∀ s : State, exec .swapreq s = .next { s with swapPending := true }

/-- R170, R171: however often it is asked for, a swap is made once, by the next enabled VINT service. -/
def Obligations.PendingSwapIsMadeOnceByVint : Prop :=
  ∀ s : State, Inv s → s.gie = true → s.vie = true →
    ∃ s1 s2 s3, exec .swapreq s = .next s1 ∧ exec .swapreq s1 = .next s1 ∧ renderBase s1 = renderBase s
      ∧ exec .vint s1 = .next s2 ∧ renderBase s2 = unpackBase s ∧ unpackBase s2 = renderBase s
      ∧ s2.swapPending = false
      ∧ exec .vint s2 = .next s3 ∧ renderBase s3 = renderBase s2

/-- R177: INTCTL writes the three enables and nothing else, where it does not enable a service before SEED. -/
def Obligations.IntctlWritesTheEnables : Prop :=
  ∀ (g v h : Bool) (s : State), (g = false ∨ (v = false ∧ h = false) ∨ s.seeded = true) →
    exec (.intctl g v h) s = .next { s with gie := g, vie := v, hie := h }

/-- R177: INTCTL that would enable a service before SEED raises Err(5), and nothing changes. -/
def Obligations.IntctlRefusesAnUnseededService : Prop :=
  ∀ (v h : Bool) (s : State), (v = true ∨ h = true) → s.seeded = false → OnlyRaises (.intctl true v h) 5 s

/-- R172: no command other than SEED writes HPTR, HSTRIP, TOGGLE or RSEL, SEED writes none of them while GIE = 1, and
the HINT service leaves RSEL.
The spec marks R172 as its own inference (derived). -/
def Obligations.OnlySeedAndServicesMoveThePointer : Prop :=
  ∀ (i : Instr) (s t : State), exec i s = .next t →
    (i ≠ .seed → i ≠ .vint → i ≠ .hint →
      t.hptr = s.hptr ∧ t.hstrip = s.hstrip ∧ t.toggle = s.toggle ∧ t.rsel = s.rsel)
    ∧ (i = .seed → s.gie = true →
      t.hptr = s.hptr ∧ t.hstrip = s.hstrip ∧ t.toggle = s.toggle ∧ t.rsel = s.rsel)
    ∧ (i = .hint → t.rsel = s.rsel)

/-- R173, R240: while the host stores only into the Unpack buffer and only with no swap pending, no palette byte races,
and no service ever reads a byte the spec does not promise (the draw counter stands still). The buffers lie outside the
register window (R236).
The spec marks R173 as its own inference (derived from R171, R172, R131 and R240). Which stores race, when a race ends and
that SWAP_PENDING itself decides are the model's reading and choice (log 9, log 10, log 26). -/
def Obligations.DisciplinedHostNeverRaces : Prop :=
  ∀ s t : State, Inv s → s.races = [] → s.buffersOutsideWindow → s.nextObeysSwapDiscipline → step s = .next t →
    t.races = [] ∧ t.freeCtr = s.freeCtr

/-! ## Who writes what -/

/-- R22 to R43, R45: what each instruction leaves alone. Each register changes only under the instructions that the rule
of the register names, and TRACE only under those that emit. The clauses on races, freeCtr, placedWord and hostReads are
about the model's own fields (log 10, log 13, log 15, log 14). -/
def Obligations.EachRegisterHasItsWriters : Prop :=
  ∀ (i : Instr) (s t : State), exec i s = .next t →
    (t.arg0 = s.arg0 ∧ t.arg1 = s.arg1 ∧ t.arg2 = s.arg2)
    ∧ (i ≠ .pace → i ≠ .adv → t.res = s.res)
    ∧ ((∀ g v h, i ≠ .intctl g v h) → t.gie = s.gie ∧ t.vie = s.vie ∧ t.hie = s.hie)
    ∧ (i ≠ .seed → t.bufA = s.bufA ∧ t.bufB = s.bufB ∧ t.seeded = s.seeded)
    ∧ (i ≠ .seed → i ≠ .vint → t.rsel = s.rsel)
    ∧ (i ≠ .swapreq → i ≠ .seed → i ≠ .vint → t.swapPending = s.swapPending)
    ∧ (i ≠ .seed → i ≠ .vint → i ≠ .hint →
      t.hline = s.hline ∧ t.hstrip = s.hstrip ∧ t.hptr = s.hptr ∧ t.toggle = s.toggle ∧ t.hstate = s.hstate)
    ∧ (i ≠ .vint → (∀ k, i ≠ .start k) → t.tick = s.tick)
    ∧ ((∀ k, i ≠ .start k) → t.strat = s.strat ∧ t.lut = s.lut ∧ t.started = s.started)
    ∧ ((∀ k, i ≠ .start k) → i ≠ .pace → t.pt = s.pt ∧ t.pidx = s.pidx ∧ t.pa = s.pa)
    ∧ ((∀ k, i ≠ .start k) → i ≠ .adv → t.lidx = s.lidx ∧ t.parity = s.parity ∧ t.done = s.done)
    ∧ ((∀ k, i ≠ .enq k) → t.slot0.op = s.slot0.op ∧ t.slot1.op = s.slot1.op ∧ t.slot2.op = s.slot2.op)
    ∧ ((∀ k, i ≠ .enq k) → i ≠ .flush →
      t.slot0.ready = s.slot0.ready ∧ t.slot1.ready = s.slot1.ready ∧ t.slot2.ready = s.slot2.ready)
    ∧ (i = .flush ∨ i = .swapreq ∨ i = .vint ∨ i = .hint → t.errmask = s.errmask ∧ t.firsterr = s.firsterr)
    ∧ (i = .seed ∨ i = .swapreq ∨ i = .pace ∨ i = .adv ∨ (∃ g v h, i = .intctl g v h) ∨ (∃ k, i = .enq k)
      ∨ (∃ k, i = .start k) ∨ (∃ w, i = .illegal w) → t.trace = s.trace)
    ∧ (i ≠ .flush → t.dbgBudget = s.dbgBudget)
    ∧ (i ≠ .vint → t.dbgVlost = s.dbgVlost)
    ∧ (i ≠ .hint → t.dbgHlost = s.dbgHlost)
    ∧ (i ≠ .seed → t.races = s.races)
    ∧ (i ≠ .vint → i ≠ .hint → t.freeCtr = s.freeCtr)
    ∧ (t.cfg = s.cfg ∧ t.mem = s.mem ∧ t.inputs = s.inputs ∧ t.placedWord = s.placedWord
      ∧ t.hostReads = s.hostReads)

/-- R33: TICK counts every VINT pulse modulo 2^32, enabled or not; a START that is not refused clears it; nothing else an
instruction does writes it. -/
def Obligations.TickCountsVintPulses : Prop :=
  ∀ (i : Instr) (s t : State), exec i s = .next t →
    (i = .vint → t.tick.toNat = (s.tick.toNat + 1) % 4294967296)
    ∧ (∀ k, i = .start k → s.gie = false → t.tick = 0#32)
    ∧ (i ≠ .vint → ((∀ k, i ≠ .start k) ∨ s.gie = true) → t.tick = s.tick)

/-- R25: SEEDED and STARTED are cleared by nothing but reset. -/
def Obligations.SeededAndStartedLastUntilReset : Prop :=
  ∀ (s t : State) (i : Input) (rest : List Input), s.placedWord = none → s.inputs = i :: rest → i ≠ .reset →
    step s = .next t →
    (s.seeded = true → t.seeded = true) ∧ (s.started = true → t.started = true)

/-! ## Host accesses, host memory, reset -/

/-- R49: a 32-bit read at an offset of the register map (R46 to R48) returns the map's value and changes no register; any
other read returns 0 and raises Err(7). The list of returned values is the model's observation (log 14). -/
def Obligations.RegisterReadsReturnTheMap : Prop :=
  ∀ (s : State) (rest : List Input) (offset : Byte) (width : AccessWidth), s.cfg.wf = true → s.placedWord = none →
    s.inputs = .hostRead offset width :: rest →
    (∀ value, width = .bits32 → (offset.toNat, value) ∈ registerMap s →
      step s = .next { s with inputs := rest, hostReads := s.hostReads ++ [BitVec.ofNat 32 value] })
    ∧ (BadAccess offset width ∨ Reserved offset →
      ∃ t, step s = .next t ∧ RecordsError 7 { s with inputs := rest, hostReads := s.hostReads ++ [0#32] } t)

/-- R50: a 32-bit aligned write to CMD executes the command, one to an argument register writes it; every other write
raises Err(7) and writes nothing. -/
def Obligations.RegisterWritesReachCmdAndArguments : Prop :=
  ∀ (s : State) (rest : List Input) (offset : Byte) (width : AccessWidth) (value : Word), s.cfg.wf = true →
    s.placedWord = none → s.inputs = .hostWrite offset width value :: rest →
    (width = .bits32 →
      (offset = 0x00#8 → step s = exec (decodeCommand value) { s with inputs := rest })
      ∧ (offset = 0x04#8 → step s = .next { s with inputs := rest, arg0 := value })
      ∧ (offset = 0x08#8 → step s = .next { s with inputs := rest, arg1 := value })
      ∧ (offset = 0x0C#8 → step s = .next { s with inputs := rest, arg2 := value }))
    ∧ (BadAccess offset width ∨ 0x10 ≤ offset.toNat →
      ∃ t, step s = .next t ∧ RecordsError 7 { s with inputs := rest } t)

/-- R230: from every state, reset leaves every element of the FSE at its reset value and STATUS reads 0x0000C000; the
configuration, host memory and the inputs to come stay (log 23). -/
def Obligations.ResetRestoresEveryElement : Prop :=
  ∀ (s : State) (rest : List Input), s.cfg.wf = true → s.placedWord = none → s.inputs = .reset :: rest →
    ∃ t, step s = .next t ∧ statusValue t = 0xC000
      ∧ t = {
        arg0 := 0, arg1 := 0, arg2 := 0, res := 0, gie := false, vie := false, hie := false
        seeded := false, started := false, done := false, bufA := 0, bufB := 0, rsel := false, swapPending := false
        hline := 0, hstrip := 0, hptr := 0, toggle := false, hstate := .idle, tick := 0, strat := .table
        pt := 0, pidx := 0, pa := 0, lut := [], lidx := 0, parity := false
        slot0 := ⟨false, ⟨0, 0, 0, 0, 0, 0⟩⟩, slot1 := ⟨false, ⟨0, 0, 0, 0, 0, 0⟩⟩
        slot2 := ⟨false, ⟨0, 0, 0, 0, 0, 0⟩⟩, errmask := 0, firsterr := 0
        dbgBudget := 0, dbgHlost := 0, dbgVlost := 0, trace := []
        cfg := s.cfg, mem := s.mem, races := s.races, freeCtr := s.freeCtr, inputs := rest, placedWord := none
        hostReads := [] }

/-- A host store outside the register window changes the byte it names and no other, keeps the canonical form of memory,
and leaves every register. How a store is an input is the model's choice (log 3, log 19). -/
def Obligations.HostStoreChangesOneByte : Prop :=
  ∀ (s : State) (rest : List Input) (a : BitVec 24) (b : Byte), s.cfg.wf = true →
    s.placedWord = none → s.inputs = .hostStore a b :: rest → inRegisterWindow s.cfg a.toNat = false →
    ∃ t, step s = .next t ∧ t.mem.lookup a.toNat = some b
      ∧ (∀ x, x ≠ a.toNat → t.mem.lookup x = s.mem.lookup x)
      ∧ (s.mem.wf → t.mem.wf)
      ∧ t = { s with inputs := rest, mem := t.mem, races := t.races }

/-- R200, R45: while nothing is placed, every step takes an input, and nothing becomes placed; TRACE is only appended to,
by a FLUSH written to CMD or by a pulse, until reset empties it. That the host's stores and pulses presented together are
inputs of the list, and that an output word can be placed at all, are the model's choice (log 15, log 19, log 20). -/
def Obligations.TraceGrowsOnlyByFlushAndServices : Prop :=
  ∀ s t : State, s.placedWord = none → step s = .next t →
    t.placedWord = none ∧ ∃ i rest, s.inputs = i :: rest
      ∧ (i ≠ .reset → ∃ es, t.trace = s.trace ++ es)
      ∧ (i = .reset → t.trace = [])
      ∧ (i ≠ .hostWrite 0x00#8 .bits32 0x04000000#32 → i ≠ .vint → i ≠ .hint → i ≠ .vintWithHint → i ≠ .reset →
        t.trace = s.trace)
end

