-- ==== Sys2Proof/Laws/Memory.lean ====
section
/-! SUPPORT. Host memory: reads after writes, the canonical form, and what one FSE read can do. -/

namespace Sys2Proof.Laws

open Sys2Proof.Machine

theorem lookup_store_same (m : Memory) (a : Nat) (b : Byte) : (m.store a b).lookup a = some b := by
  induction m with
  | nil => simp [Memory.store, Memory.lookup]
  | cons c m ih =>
    rw [Memory.store]
    split
    · simp [Memory.lookup]
    · split
      · simp [Memory.lookup]
      · next h => simp [Memory.lookup, h, ih]

theorem lookup_store_other (m : Memory) {a x : Nat} (b : Byte) (h : x ≠ a) :
    (m.store a b).lookup x = m.lookup x := by
  induction m with
  | nil => simp [Memory.store, Memory.lookup, h.symm]
  | cons c m ih =>
    rw [Memory.store]
    split
    · simp [Memory.lookup, h.symm]
    · split
      · next hc => simp [Memory.lookup, hc, h.symm]
      · simp only [Memory.lookup, ih]

theorem mem_store {m : Memory} {a : Nat} {b : Byte} {c : Host.Cell} (h : c ∈ m.store a b) :
    c = (a, b) ∨ c ∈ m := by
  induction m with
  | nil => simpa [Memory.store] using h
  | cons d m ih =>
    rw [Memory.store] at h
    split at h
    · simpa using h
    · split at h
      · rcases List.mem_cons.mp h with h | h
        · exact .inl h
        · exact .inr (List.mem_cons_of_mem _ h)
      · rcases List.mem_cons.mp h with h | h
        · exact .inr (h ▸ List.mem_cons_self)
        · exact (ih h).imp_right (List.mem_cons_of_mem _)

/-- Storing a byte keeps the canonical form. -/
theorem store_wf {m : Memory} {a : Nat} (b : Byte) (hm : m.wf) (ha : a < 2 ^ 24) : (m.store a b).wf := by
  refine ⟨?_, fun c hc => ?_⟩
  · have hp := hm.1
    clear hm
    induction m with
    | nil => simp [Memory.store]
    | cons d m ih =>
      have ⟨hd, hp'⟩ := List.pairwise_cons.mp hp
      rw [Memory.store]
      split
      · next h =>
        refine List.pairwise_cons.mpr ⟨fun c hc => ?_, hp⟩
        rcases List.mem_cons.mp hc with rfl | hc
        · exact h
        · exact h.trans (hd c hc)
      · split
        · next h => exact List.pairwise_cons.mpr ⟨fun c hc => h ▸ hd c hc, hp'⟩
        · next h1 h2 =>
          refine List.pairwise_cons.mpr ⟨fun c hc => ?_, ih hp'⟩
          rcases mem_store hc with rfl | hc
          · show d.1 < a; omega
          · exact hd c hc
  · rcases mem_store hc with rfl | hc
    · exact ha
    · exact hm.2 c hc

/-- Every host store keeps the canonical form. -/
theorem hostStore_mem_wf (address : BitVec 24) (value : Byte) {s : State} (h : s.mem.wf) :
    (hostStore address value s).mem.wf := by
  rw [hostStore]
  split
  · exact h
  · exact store_wf value h address.isLt

/-- One byte read changes the draw counter at most. -/
theorem readHostByte_frame (a : Nat) (s : State) :
    ∃ n, s.freeCtr ≤ n ∧ (readHostByte a s).2 = { s with freeCtr := n } := by
  rw [readHostByte]
  split
  · exact ⟨_, Nat.le_succ _, rfl⟩
  · exact ⟨_, Nat.le_refl _, rfl⟩

/-- A byte that neither races nor lies in the register window reads as stored, and nothing changes. -/
theorem readHostByte_settled {a : Nat} {s : State} (hr : a ∉ s.races) (hw : inRegisterWindow s.cfg a = false) :
    readHostByte a s = ((s.mem.lookup a).getD (Config.unwrittenByte a), s) := by
  simp [readHostByte, hr, hw]

/-- What MemRead can do: the four bytes exist, the word is made of them in rising order, and at most the draw counter
changes. -/
theorem memRead_ok {a : Nat} {s s' : State} {w : Word} (h : memRead a s = .ok (w, s')) :
    a + 3 ≤ 0xFFFFFF ∧ ∃ n b0 b1 b2 b3, s.freeCtr ≤ n ∧ s' = { s with freeCtr := n }
      ∧ w = b0 ++ b1 ++ b2 ++ b3
      ∧ (∃ m, b0 = (readHostByte a { s with freeCtr := m }).1)
      ∧ (∃ m, b1 = (readHostByte (a + 1) { s with freeCtr := m }).1)
      ∧ (∃ m, b2 = (readHostByte (a + 2) { s with freeCtr := m }).1)
      ∧ (∃ m, b3 = (readHostByte (a + 3) { s with freeCtr := m }).1) := by
  rw [memRead] at h
  split at h
  · cases h
  · next hlt =>
    obtain ⟨n0, l0, e0⟩ := readHostByte_frame a s
    obtain ⟨n1, l1, e1⟩ := readHostByte_frame (a + 1) { s with freeCtr := n0 }
    obtain ⟨n2, l2, e2⟩ := readHostByte_frame (a + 2) { s with freeCtr := n1 }
    obtain ⟨n3, l3, e3⟩ := readHostByte_frame (a + 3) { s with freeCtr := n2 }
    simp only [e0, e1, e2, e3, Except.ok.injEq, Prod.mk.injEq] at h
    refine ⟨by omega, n3, _, _, _, _, ?_, h.2.symm, h.1.symm, ⟨_, rfl⟩, ⟨n0, rfl⟩, ⟨n1, rfl⟩, ⟨n2, rfl⟩⟩
    exact l0.trans (l1.trans (l2.trans l3))

/-- MemRead faults only past the end of the address space. -/
theorem memRead_total {a : Nat} (s : State) (h : a + 3 ≤ 0xFFFFFF) : ∃ w s', memRead a s = .ok (w, s') := by
  rw [memRead, if_neg (by omega)]
  exact ⟨_, _, rfl⟩

/-- Four settled bytes read as stored, big-endian, and nothing changes. -/
theorem memRead_settled {a : Nat} {s : State} (h : a + 3 ≤ 0xFFFFFF)
    (hr : ∀ k, k < 4 → a + k ∉ s.races) (hw : ∀ k, k < 4 → inRegisterWindow s.cfg (a + k) = false) :
    memRead a s = .ok
      ((s.mem.lookup a).getD (Config.unwrittenByte a)
        ++ (s.mem.lookup (a + 1)).getD (Config.unwrittenByte (a + 1))
        ++ (s.mem.lookup (a + 2)).getD (Config.unwrittenByte (a + 2))
        ++ (s.mem.lookup (a + 3)).getD (Config.unwrittenByte (a + 3)), s) := by
  rw [memRead, if_neg (by omega), readHostByte_settled (by simpa using hr 0 (by omega)) (by simpa using hw 0 (by omega))]
  simp only [readHostByte_settled (hr 1 (by omega)) (hw 1 (by omega)),
    readHostByte_settled (hr 2 (by omega)) (hw 2 (by omega)), readHostByte_settled (hr 3 (by omega)) (hw 3 (by omega))]

end Sys2Proof.Laws
end

