-- ==== Sys2Proof/Laws/State.lean ====
section
/-! SUPPORT. One lemma for each field of State under each shared update, so that no proof unfolds a record update. -/

namespace Sys2Proof.Laws

open Sys2Proof.Machine

/-! ### emit -/

@[simp] theorem emit_arg0 (e : PortEvent) (s : State) : (emit e s).arg0 = s.arg0 := rfl
@[simp] theorem emit_arg1 (e : PortEvent) (s : State) : (emit e s).arg1 = s.arg1 := rfl
@[simp] theorem emit_arg2 (e : PortEvent) (s : State) : (emit e s).arg2 = s.arg2 := rfl
@[simp] theorem emit_res (e : PortEvent) (s : State) : (emit e s).res = s.res := rfl
@[simp] theorem emit_gie (e : PortEvent) (s : State) : (emit e s).gie = s.gie := rfl
@[simp] theorem emit_vie (e : PortEvent) (s : State) : (emit e s).vie = s.vie := rfl
@[simp] theorem emit_hie (e : PortEvent) (s : State) : (emit e s).hie = s.hie := rfl
@[simp] theorem emit_seeded (e : PortEvent) (s : State) : (emit e s).seeded = s.seeded := rfl
@[simp] theorem emit_started (e : PortEvent) (s : State) : (emit e s).started = s.started := rfl
@[simp] theorem emit_done (e : PortEvent) (s : State) : (emit e s).done = s.done := rfl
@[simp] theorem emit_bufA (e : PortEvent) (s : State) : (emit e s).bufA = s.bufA := rfl
@[simp] theorem emit_bufB (e : PortEvent) (s : State) : (emit e s).bufB = s.bufB := rfl
@[simp] theorem emit_rsel (e : PortEvent) (s : State) : (emit e s).rsel = s.rsel := rfl
@[simp] theorem emit_swapPending (e : PortEvent) (s : State) : (emit e s).swapPending = s.swapPending := rfl
@[simp] theorem emit_hline (e : PortEvent) (s : State) : (emit e s).hline = s.hline := rfl
@[simp] theorem emit_hstrip (e : PortEvent) (s : State) : (emit e s).hstrip = s.hstrip := rfl
@[simp] theorem emit_hptr (e : PortEvent) (s : State) : (emit e s).hptr = s.hptr := rfl
@[simp] theorem emit_toggle (e : PortEvent) (s : State) : (emit e s).toggle = s.toggle := rfl
@[simp] theorem emit_hstate (e : PortEvent) (s : State) : (emit e s).hstate = s.hstate := rfl
@[simp] theorem emit_tick (e : PortEvent) (s : State) : (emit e s).tick = s.tick := rfl
@[simp] theorem emit_strat (e : PortEvent) (s : State) : (emit e s).strat = s.strat := rfl
@[simp] theorem emit_pt (e : PortEvent) (s : State) : (emit e s).pt = s.pt := rfl
@[simp] theorem emit_pidx (e : PortEvent) (s : State) : (emit e s).pidx = s.pidx := rfl
@[simp] theorem emit_pa (e : PortEvent) (s : State) : (emit e s).pa = s.pa := rfl
@[simp] theorem emit_lut (e : PortEvent) (s : State) : (emit e s).lut = s.lut := rfl
@[simp] theorem emit_lidx (e : PortEvent) (s : State) : (emit e s).lidx = s.lidx := rfl
@[simp] theorem emit_parity (e : PortEvent) (s : State) : (emit e s).parity = s.parity := rfl
@[simp] theorem emit_slot0 (e : PortEvent) (s : State) : (emit e s).slot0 = s.slot0 := rfl
@[simp] theorem emit_slot1 (e : PortEvent) (s : State) : (emit e s).slot1 = s.slot1 := rfl
@[simp] theorem emit_slot2 (e : PortEvent) (s : State) : (emit e s).slot2 = s.slot2 := rfl
@[simp] theorem emit_errmask (e : PortEvent) (s : State) : (emit e s).errmask = s.errmask := rfl
@[simp] theorem emit_firsterr (e : PortEvent) (s : State) : (emit e s).firsterr = s.firsterr := rfl
@[simp] theorem emit_dbgBudget (e : PortEvent) (s : State) : (emit e s).dbgBudget = s.dbgBudget := rfl
@[simp] theorem emit_dbgHlost (e : PortEvent) (s : State) : (emit e s).dbgHlost = s.dbgHlost := rfl
@[simp] theorem emit_dbgVlost (e : PortEvent) (s : State) : (emit e s).dbgVlost = s.dbgVlost := rfl
@[simp] theorem emit_trace (e : PortEvent) (s : State) : (emit e s).trace = s.trace ++ [e] := rfl
@[simp] theorem emit_cfg (e : PortEvent) (s : State) : (emit e s).cfg = s.cfg := rfl
@[simp] theorem emit_mem (e : PortEvent) (s : State) : (emit e s).mem = s.mem := rfl
@[simp] theorem emit_races (e : PortEvent) (s : State) : (emit e s).races = s.races := rfl
@[simp] theorem emit_freeCtr (e : PortEvent) (s : State) : (emit e s).freeCtr = s.freeCtr := rfl
@[simp] theorem emit_inputs (e : PortEvent) (s : State) : (emit e s).inputs = s.inputs := rfl
@[simp] theorem emit_placedWord (e : PortEvent) (s : State) : (emit e s).placedWord = s.placedWord := rfl
@[simp] theorem emit_hostReads (e : PortEvent) (s : State) : (emit e s).hostReads = s.hostReads := rfl

/-! ### emitOp -/

@[simp] theorem emitOp_arg0 (op : DmaOp) (s : State) : (emitOp op s).arg0 = s.arg0 := rfl
@[simp] theorem emitOp_arg1 (op : DmaOp) (s : State) : (emitOp op s).arg1 = s.arg1 := rfl
@[simp] theorem emitOp_arg2 (op : DmaOp) (s : State) : (emitOp op s).arg2 = s.arg2 := rfl
@[simp] theorem emitOp_res (op : DmaOp) (s : State) : (emitOp op s).res = s.res := rfl
@[simp] theorem emitOp_gie (op : DmaOp) (s : State) : (emitOp op s).gie = s.gie := rfl
@[simp] theorem emitOp_vie (op : DmaOp) (s : State) : (emitOp op s).vie = s.vie := rfl
@[simp] theorem emitOp_hie (op : DmaOp) (s : State) : (emitOp op s).hie = s.hie := rfl
@[simp] theorem emitOp_seeded (op : DmaOp) (s : State) : (emitOp op s).seeded = s.seeded := rfl
@[simp] theorem emitOp_started (op : DmaOp) (s : State) : (emitOp op s).started = s.started := rfl
@[simp] theorem emitOp_done (op : DmaOp) (s : State) : (emitOp op s).done = s.done := rfl
@[simp] theorem emitOp_bufA (op : DmaOp) (s : State) : (emitOp op s).bufA = s.bufA := rfl
@[simp] theorem emitOp_bufB (op : DmaOp) (s : State) : (emitOp op s).bufB = s.bufB := rfl
@[simp] theorem emitOp_rsel (op : DmaOp) (s : State) : (emitOp op s).rsel = s.rsel := rfl
@[simp] theorem emitOp_swapPending (op : DmaOp) (s : State) : (emitOp op s).swapPending = s.swapPending := rfl
@[simp] theorem emitOp_hline (op : DmaOp) (s : State) : (emitOp op s).hline = s.hline := rfl
@[simp] theorem emitOp_hstrip (op : DmaOp) (s : State) : (emitOp op s).hstrip = s.hstrip := rfl
@[simp] theorem emitOp_hptr (op : DmaOp) (s : State) : (emitOp op s).hptr = s.hptr := rfl
@[simp] theorem emitOp_toggle (op : DmaOp) (s : State) : (emitOp op s).toggle = s.toggle := rfl
@[simp] theorem emitOp_hstate (op : DmaOp) (s : State) : (emitOp op s).hstate = s.hstate := rfl
@[simp] theorem emitOp_tick (op : DmaOp) (s : State) : (emitOp op s).tick = s.tick := rfl
@[simp] theorem emitOp_strat (op : DmaOp) (s : State) : (emitOp op s).strat = s.strat := rfl
@[simp] theorem emitOp_pt (op : DmaOp) (s : State) : (emitOp op s).pt = s.pt := rfl
@[simp] theorem emitOp_pidx (op : DmaOp) (s : State) : (emitOp op s).pidx = s.pidx := rfl
@[simp] theorem emitOp_pa (op : DmaOp) (s : State) : (emitOp op s).pa = s.pa := rfl
@[simp] theorem emitOp_lut (op : DmaOp) (s : State) : (emitOp op s).lut = s.lut := rfl
@[simp] theorem emitOp_lidx (op : DmaOp) (s : State) : (emitOp op s).lidx = s.lidx := rfl
@[simp] theorem emitOp_parity (op : DmaOp) (s : State) : (emitOp op s).parity = s.parity := rfl
@[simp] theorem emitOp_slot0 (op : DmaOp) (s : State) : (emitOp op s).slot0 = s.slot0 := rfl
@[simp] theorem emitOp_slot1 (op : DmaOp) (s : State) : (emitOp op s).slot1 = s.slot1 := rfl
@[simp] theorem emitOp_slot2 (op : DmaOp) (s : State) : (emitOp op s).slot2 = s.slot2 := rfl
@[simp] theorem emitOp_errmask (op : DmaOp) (s : State) : (emitOp op s).errmask = s.errmask := rfl
@[simp] theorem emitOp_firsterr (op : DmaOp) (s : State) : (emitOp op s).firsterr = s.firsterr := rfl
@[simp] theorem emitOp_dbgBudget (op : DmaOp) (s : State) : (emitOp op s).dbgBudget = s.dbgBudget := rfl
@[simp] theorem emitOp_dbgHlost (op : DmaOp) (s : State) : (emitOp op s).dbgHlost = s.dbgHlost := rfl
@[simp] theorem emitOp_dbgVlost (op : DmaOp) (s : State) : (emitOp op s).dbgVlost = s.dbgVlost := rfl
@[simp] theorem emitOp_trace (op : DmaOp) (s : State) : (emitOp op s).trace = s.trace ++ opEvents op := rfl
@[simp] theorem emitOp_cfg (op : DmaOp) (s : State) : (emitOp op s).cfg = s.cfg := rfl
@[simp] theorem emitOp_mem (op : DmaOp) (s : State) : (emitOp op s).mem = s.mem := rfl
@[simp] theorem emitOp_races (op : DmaOp) (s : State) : (emitOp op s).races = s.races := rfl
@[simp] theorem emitOp_freeCtr (op : DmaOp) (s : State) : (emitOp op s).freeCtr = s.freeCtr := rfl
@[simp] theorem emitOp_inputs (op : DmaOp) (s : State) : (emitOp op s).inputs = s.inputs := rfl
@[simp] theorem emitOp_placedWord (op : DmaOp) (s : State) : (emitOp op s).placedWord = s.placedWord := rfl
@[simp] theorem emitOp_hostReads (op : DmaOp) (s : State) : (emitOp op s).hostReads = s.hostReads := rfl

/-! ### raiseError -/

@[simp] theorem raiseError_arg0 (e : ErrorCode) (s : State) : (raiseError e s).arg0 = s.arg0 := rfl
@[simp] theorem raiseError_arg1 (e : ErrorCode) (s : State) : (raiseError e s).arg1 = s.arg1 := rfl
@[simp] theorem raiseError_arg2 (e : ErrorCode) (s : State) : (raiseError e s).arg2 = s.arg2 := rfl
@[simp] theorem raiseError_res (e : ErrorCode) (s : State) : (raiseError e s).res = s.res := rfl
@[simp] theorem raiseError_gie (e : ErrorCode) (s : State) : (raiseError e s).gie = s.gie := rfl
@[simp] theorem raiseError_vie (e : ErrorCode) (s : State) : (raiseError e s).vie = s.vie := rfl
@[simp] theorem raiseError_hie (e : ErrorCode) (s : State) : (raiseError e s).hie = s.hie := rfl
@[simp] theorem raiseError_seeded (e : ErrorCode) (s : State) : (raiseError e s).seeded = s.seeded := rfl
@[simp] theorem raiseError_started (e : ErrorCode) (s : State) : (raiseError e s).started = s.started := rfl
@[simp] theorem raiseError_done (e : ErrorCode) (s : State) : (raiseError e s).done = s.done := rfl
@[simp] theorem raiseError_bufA (e : ErrorCode) (s : State) : (raiseError e s).bufA = s.bufA := rfl
@[simp] theorem raiseError_bufB (e : ErrorCode) (s : State) : (raiseError e s).bufB = s.bufB := rfl
@[simp] theorem raiseError_rsel (e : ErrorCode) (s : State) : (raiseError e s).rsel = s.rsel := rfl
@[simp] theorem raiseError_swapPending (e : ErrorCode) (s : State) :
    (raiseError e s).swapPending = s.swapPending := rfl
@[simp] theorem raiseError_hline (e : ErrorCode) (s : State) : (raiseError e s).hline = s.hline := rfl
@[simp] theorem raiseError_hstrip (e : ErrorCode) (s : State) : (raiseError e s).hstrip = s.hstrip := rfl
@[simp] theorem raiseError_hptr (e : ErrorCode) (s : State) : (raiseError e s).hptr = s.hptr := rfl
@[simp] theorem raiseError_toggle (e : ErrorCode) (s : State) : (raiseError e s).toggle = s.toggle := rfl
@[simp] theorem raiseError_hstate (e : ErrorCode) (s : State) : (raiseError e s).hstate = s.hstate := rfl
@[simp] theorem raiseError_tick (e : ErrorCode) (s : State) : (raiseError e s).tick = s.tick := rfl
@[simp] theorem raiseError_strat (e : ErrorCode) (s : State) : (raiseError e s).strat = s.strat := rfl
@[simp] theorem raiseError_pt (e : ErrorCode) (s : State) : (raiseError e s).pt = s.pt := rfl
@[simp] theorem raiseError_pidx (e : ErrorCode) (s : State) : (raiseError e s).pidx = s.pidx := rfl
@[simp] theorem raiseError_pa (e : ErrorCode) (s : State) : (raiseError e s).pa = s.pa := rfl
@[simp] theorem raiseError_lut (e : ErrorCode) (s : State) : (raiseError e s).lut = s.lut := rfl
@[simp] theorem raiseError_lidx (e : ErrorCode) (s : State) : (raiseError e s).lidx = s.lidx := rfl
@[simp] theorem raiseError_parity (e : ErrorCode) (s : State) : (raiseError e s).parity = s.parity := rfl
@[simp] theorem raiseError_slot0 (e : ErrorCode) (s : State) : (raiseError e s).slot0 = s.slot0 := rfl
@[simp] theorem raiseError_slot1 (e : ErrorCode) (s : State) : (raiseError e s).slot1 = s.slot1 := rfl
@[simp] theorem raiseError_slot2 (e : ErrorCode) (s : State) : (raiseError e s).slot2 = s.slot2 := rfl
@[simp] theorem raiseError_errmask (e : ErrorCode) (s : State) :
    (raiseError e s).errmask = s.errmask ||| (1#8 <<< (errorNumber e - 1)) := rfl
@[simp] theorem raiseError_firsterr (e : ErrorCode) (s : State) :
    (raiseError e s).firsterr = if s.firsterr = 0#8 then BitVec.ofNat 8 (errorNumber e) else s.firsterr := rfl
@[simp] theorem raiseError_dbgBudget (e : ErrorCode) (s : State) : (raiseError e s).dbgBudget = s.dbgBudget := rfl
@[simp] theorem raiseError_dbgHlost (e : ErrorCode) (s : State) : (raiseError e s).dbgHlost = s.dbgHlost := rfl
@[simp] theorem raiseError_dbgVlost (e : ErrorCode) (s : State) : (raiseError e s).dbgVlost = s.dbgVlost := rfl
@[simp] theorem raiseError_trace (e : ErrorCode) (s : State) : (raiseError e s).trace = s.trace := rfl
@[simp] theorem raiseError_cfg (e : ErrorCode) (s : State) : (raiseError e s).cfg = s.cfg := rfl
@[simp] theorem raiseError_mem (e : ErrorCode) (s : State) : (raiseError e s).mem = s.mem := rfl
@[simp] theorem raiseError_races (e : ErrorCode) (s : State) : (raiseError e s).races = s.races := rfl
@[simp] theorem raiseError_freeCtr (e : ErrorCode) (s : State) : (raiseError e s).freeCtr = s.freeCtr := rfl
@[simp] theorem raiseError_inputs (e : ErrorCode) (s : State) : (raiseError e s).inputs = s.inputs := rfl
@[simp] theorem raiseError_placedWord (e : ErrorCode) (s : State) : (raiseError e s).placedWord = s.placedWord := rfl
@[simp] theorem raiseError_hostReads (e : ErrorCode) (s : State) : (raiseError e s).hostReads = s.hostReads := rfl

/-! ### rewindStrips -/

@[simp] theorem rewindStrips_arg0 (base : Word) (s : State) : (rewindStrips base s).arg0 = s.arg0 := rfl
@[simp] theorem rewindStrips_arg1 (base : Word) (s : State) : (rewindStrips base s).arg1 = s.arg1 := rfl
@[simp] theorem rewindStrips_arg2 (base : Word) (s : State) : (rewindStrips base s).arg2 = s.arg2 := rfl
@[simp] theorem rewindStrips_res (base : Word) (s : State) : (rewindStrips base s).res = s.res := rfl
@[simp] theorem rewindStrips_gie (base : Word) (s : State) : (rewindStrips base s).gie = s.gie := rfl
@[simp] theorem rewindStrips_vie (base : Word) (s : State) : (rewindStrips base s).vie = s.vie := rfl
@[simp] theorem rewindStrips_hie (base : Word) (s : State) : (rewindStrips base s).hie = s.hie := rfl
@[simp] theorem rewindStrips_seeded (base : Word) (s : State) : (rewindStrips base s).seeded = s.seeded := rfl
@[simp] theorem rewindStrips_started (base : Word) (s : State) : (rewindStrips base s).started = s.started := rfl
@[simp] theorem rewindStrips_done (base : Word) (s : State) : (rewindStrips base s).done = s.done := rfl
@[simp] theorem rewindStrips_bufA (base : Word) (s : State) : (rewindStrips base s).bufA = s.bufA := rfl
@[simp] theorem rewindStrips_bufB (base : Word) (s : State) : (rewindStrips base s).bufB = s.bufB := rfl
@[simp] theorem rewindStrips_rsel (base : Word) (s : State) : (rewindStrips base s).rsel = s.rsel := rfl
@[simp] theorem rewindStrips_swapPending (base : Word) (s : State) :
    (rewindStrips base s).swapPending = s.swapPending := rfl
@[simp] theorem rewindStrips_hline (base : Word) (s : State) : (rewindStrips base s).hline = s.cfg.lineOffset := rfl
@[simp] theorem rewindStrips_hstrip (base : Word) (s : State) : (rewindStrips base s).hstrip = 0 := rfl
@[simp] theorem rewindStrips_hptr (base : Word) (s : State) : (rewindStrips base s).hptr = base := rfl
@[simp] theorem rewindStrips_toggle (base : Word) (s : State) : (rewindStrips base s).toggle = false := rfl
@[simp] theorem rewindStrips_hstate (base : Word) (s : State) : (rewindStrips base s).hstate = .idle := rfl
@[simp] theorem rewindStrips_tick (base : Word) (s : State) : (rewindStrips base s).tick = s.tick := rfl
@[simp] theorem rewindStrips_strat (base : Word) (s : State) : (rewindStrips base s).strat = s.strat := rfl
@[simp] theorem rewindStrips_pt (base : Word) (s : State) : (rewindStrips base s).pt = s.pt := rfl
@[simp] theorem rewindStrips_pidx (base : Word) (s : State) : (rewindStrips base s).pidx = s.pidx := rfl
@[simp] theorem rewindStrips_pa (base : Word) (s : State) : (rewindStrips base s).pa = s.pa := rfl
@[simp] theorem rewindStrips_lut (base : Word) (s : State) : (rewindStrips base s).lut = s.lut := rfl
@[simp] theorem rewindStrips_lidx (base : Word) (s : State) : (rewindStrips base s).lidx = s.lidx := rfl
@[simp] theorem rewindStrips_parity (base : Word) (s : State) : (rewindStrips base s).parity = s.parity := rfl
@[simp] theorem rewindStrips_slot0 (base : Word) (s : State) : (rewindStrips base s).slot0 = s.slot0 := rfl
@[simp] theorem rewindStrips_slot1 (base : Word) (s : State) : (rewindStrips base s).slot1 = s.slot1 := rfl
@[simp] theorem rewindStrips_slot2 (base : Word) (s : State) : (rewindStrips base s).slot2 = s.slot2 := rfl
@[simp] theorem rewindStrips_errmask (base : Word) (s : State) : (rewindStrips base s).errmask = s.errmask := rfl
@[simp] theorem rewindStrips_firsterr (base : Word) (s : State) : (rewindStrips base s).firsterr = s.firsterr := rfl
@[simp] theorem rewindStrips_dbgBudget (base : Word) (s : State) :
    (rewindStrips base s).dbgBudget = s.dbgBudget := rfl
@[simp] theorem rewindStrips_dbgHlost (base : Word) (s : State) : (rewindStrips base s).dbgHlost = s.dbgHlost := rfl
@[simp] theorem rewindStrips_dbgVlost (base : Word) (s : State) : (rewindStrips base s).dbgVlost = s.dbgVlost := rfl
@[simp] theorem rewindStrips_trace (base : Word) (s : State) : (rewindStrips base s).trace = s.trace := rfl
@[simp] theorem rewindStrips_cfg (base : Word) (s : State) : (rewindStrips base s).cfg = s.cfg := rfl
@[simp] theorem rewindStrips_mem (base : Word) (s : State) : (rewindStrips base s).mem = s.mem := rfl
@[simp] theorem rewindStrips_races (base : Word) (s : State) : (rewindStrips base s).races = s.races := rfl
@[simp] theorem rewindStrips_freeCtr (base : Word) (s : State) : (rewindStrips base s).freeCtr = s.freeCtr := rfl
@[simp] theorem rewindStrips_inputs (base : Word) (s : State) : (rewindStrips base s).inputs = s.inputs := rfl
@[simp] theorem rewindStrips_placedWord (base : Word) (s : State) :
    (rewindStrips base s).placedWord = s.placedWord := rfl
@[simp] theorem rewindStrips_hostReads (base : Word) (s : State) :
    (rewindStrips base s).hostReads = s.hostReads := rfl

/-! ### advanceStrip -/

@[simp] theorem advanceStrip_arg0 (s : State) : (advanceStrip s).arg0 = s.arg0 := rfl
@[simp] theorem advanceStrip_arg1 (s : State) : (advanceStrip s).arg1 = s.arg1 := rfl
@[simp] theorem advanceStrip_arg2 (s : State) : (advanceStrip s).arg2 = s.arg2 := rfl
@[simp] theorem advanceStrip_res (s : State) : (advanceStrip s).res = s.res := rfl
@[simp] theorem advanceStrip_gie (s : State) : (advanceStrip s).gie = s.gie := rfl
@[simp] theorem advanceStrip_vie (s : State) : (advanceStrip s).vie = s.vie := rfl
@[simp] theorem advanceStrip_hie (s : State) : (advanceStrip s).hie = s.hie := rfl
@[simp] theorem advanceStrip_seeded (s : State) : (advanceStrip s).seeded = s.seeded := rfl
@[simp] theorem advanceStrip_started (s : State) : (advanceStrip s).started = s.started := rfl
@[simp] theorem advanceStrip_done (s : State) : (advanceStrip s).done = s.done := rfl
@[simp] theorem advanceStrip_bufA (s : State) : (advanceStrip s).bufA = s.bufA := rfl
@[simp] theorem advanceStrip_bufB (s : State) : (advanceStrip s).bufB = s.bufB := rfl
@[simp] theorem advanceStrip_rsel (s : State) : (advanceStrip s).rsel = s.rsel := rfl
@[simp] theorem advanceStrip_swapPending (s : State) : (advanceStrip s).swapPending = s.swapPending := rfl
@[simp] theorem advanceStrip_hline (s : State) : (advanceStrip s).hline = s.hline := rfl
@[simp] theorem advanceStrip_hstrip (s : State) : (advanceStrip s).hstrip = s.hstrip + 1 := rfl
@[simp] theorem advanceStrip_hptr (s : State) :
    (advanceStrip s).hptr = s.hptr + BitVec.ofNat 32 s.cfg.stripStride := rfl
@[simp] theorem advanceStrip_toggle (s : State) : (advanceStrip s).toggle = !s.toggle := rfl
@[simp] theorem advanceStrip_hstate (s : State) : (advanceStrip s).hstate = s.hstate := rfl
@[simp] theorem advanceStrip_tick (s : State) : (advanceStrip s).tick = s.tick := rfl
@[simp] theorem advanceStrip_strat (s : State) : (advanceStrip s).strat = s.strat := rfl
@[simp] theorem advanceStrip_pt (s : State) : (advanceStrip s).pt = s.pt := rfl
@[simp] theorem advanceStrip_pidx (s : State) : (advanceStrip s).pidx = s.pidx := rfl
@[simp] theorem advanceStrip_pa (s : State) : (advanceStrip s).pa = s.pa := rfl
@[simp] theorem advanceStrip_lut (s : State) : (advanceStrip s).lut = s.lut := rfl
@[simp] theorem advanceStrip_lidx (s : State) : (advanceStrip s).lidx = s.lidx := rfl
@[simp] theorem advanceStrip_parity (s : State) : (advanceStrip s).parity = s.parity := rfl
@[simp] theorem advanceStrip_slot0 (s : State) : (advanceStrip s).slot0 = s.slot0 := rfl
@[simp] theorem advanceStrip_slot1 (s : State) : (advanceStrip s).slot1 = s.slot1 := rfl
@[simp] theorem advanceStrip_slot2 (s : State) : (advanceStrip s).slot2 = s.slot2 := rfl
@[simp] theorem advanceStrip_errmask (s : State) : (advanceStrip s).errmask = s.errmask := rfl
@[simp] theorem advanceStrip_firsterr (s : State) : (advanceStrip s).firsterr = s.firsterr := rfl
@[simp] theorem advanceStrip_dbgBudget (s : State) : (advanceStrip s).dbgBudget = s.dbgBudget := rfl
@[simp] theorem advanceStrip_dbgHlost (s : State) : (advanceStrip s).dbgHlost = s.dbgHlost := rfl
@[simp] theorem advanceStrip_dbgVlost (s : State) : (advanceStrip s).dbgVlost = s.dbgVlost := rfl
@[simp] theorem advanceStrip_trace (s : State) : (advanceStrip s).trace = s.trace := rfl
@[simp] theorem advanceStrip_cfg (s : State) : (advanceStrip s).cfg = s.cfg := rfl
@[simp] theorem advanceStrip_mem (s : State) : (advanceStrip s).mem = s.mem := rfl
@[simp] theorem advanceStrip_races (s : State) : (advanceStrip s).races = s.races := rfl
@[simp] theorem advanceStrip_freeCtr (s : State) : (advanceStrip s).freeCtr = s.freeCtr := rfl
@[simp] theorem advanceStrip_inputs (s : State) : (advanceStrip s).inputs = s.inputs := rfl
@[simp] theorem advanceStrip_placedWord (s : State) : (advanceStrip s).placedWord = s.placedWord := rfl
@[simp] theorem advanceStrip_hostReads (s : State) : (advanceStrip s).hostReads = s.hostReads := rfl

/-! ### setSlot -/

@[simp] theorem setSlot_arg0 (k : Slot) (v : DmaSlot) (s : State) : (setSlot k v s).arg0 = s.arg0 := by
  cases k <;> rfl
@[simp] theorem setSlot_arg1 (k : Slot) (v : DmaSlot) (s : State) : (setSlot k v s).arg1 = s.arg1 := by
  cases k <;> rfl
@[simp] theorem setSlot_arg2 (k : Slot) (v : DmaSlot) (s : State) : (setSlot k v s).arg2 = s.arg2 := by
  cases k <;> rfl
@[simp] theorem setSlot_res (k : Slot) (v : DmaSlot) (s : State) : (setSlot k v s).res = s.res := by
  cases k <;> rfl
@[simp] theorem setSlot_gie (k : Slot) (v : DmaSlot) (s : State) : (setSlot k v s).gie = s.gie := by
  cases k <;> rfl
@[simp] theorem setSlot_vie (k : Slot) (v : DmaSlot) (s : State) : (setSlot k v s).vie = s.vie := by
  cases k <;> rfl
@[simp] theorem setSlot_hie (k : Slot) (v : DmaSlot) (s : State) : (setSlot k v s).hie = s.hie := by
  cases k <;> rfl
@[simp] theorem setSlot_seeded (k : Slot) (v : DmaSlot) (s : State) : (setSlot k v s).seeded = s.seeded := by
  cases k <;> rfl
@[simp] theorem setSlot_started (k : Slot) (v : DmaSlot) (s : State) : (setSlot k v s).started = s.started := by
  cases k <;> rfl
@[simp] theorem setSlot_done (k : Slot) (v : DmaSlot) (s : State) : (setSlot k v s).done = s.done := by
  cases k <;> rfl
@[simp] theorem setSlot_bufA (k : Slot) (v : DmaSlot) (s : State) : (setSlot k v s).bufA = s.bufA := by
  cases k <;> rfl
@[simp] theorem setSlot_bufB (k : Slot) (v : DmaSlot) (s : State) : (setSlot k v s).bufB = s.bufB := by
  cases k <;> rfl
@[simp] theorem setSlot_rsel (k : Slot) (v : DmaSlot) (s : State) : (setSlot k v s).rsel = s.rsel := by
  cases k <;> rfl
@[simp] theorem setSlot_swapPending (k : Slot) (v : DmaSlot) (s : State) : (setSlot k v s).swapPending = s.swapPending := by
  cases k <;> rfl
@[simp] theorem setSlot_hline (k : Slot) (v : DmaSlot) (s : State) : (setSlot k v s).hline = s.hline := by
  cases k <;> rfl
@[simp] theorem setSlot_hstrip (k : Slot) (v : DmaSlot) (s : State) : (setSlot k v s).hstrip = s.hstrip := by
  cases k <;> rfl
@[simp] theorem setSlot_hptr (k : Slot) (v : DmaSlot) (s : State) : (setSlot k v s).hptr = s.hptr := by
  cases k <;> rfl
@[simp] theorem setSlot_toggle (k : Slot) (v : DmaSlot) (s : State) : (setSlot k v s).toggle = s.toggle := by
  cases k <;> rfl
@[simp] theorem setSlot_hstate (k : Slot) (v : DmaSlot) (s : State) : (setSlot k v s).hstate = s.hstate := by
  cases k <;> rfl
@[simp] theorem setSlot_tick (k : Slot) (v : DmaSlot) (s : State) : (setSlot k v s).tick = s.tick := by
  cases k <;> rfl
@[simp] theorem setSlot_strat (k : Slot) (v : DmaSlot) (s : State) : (setSlot k v s).strat = s.strat := by
  cases k <;> rfl
@[simp] theorem setSlot_pt (k : Slot) (v : DmaSlot) (s : State) : (setSlot k v s).pt = s.pt := by
  cases k <;> rfl
@[simp] theorem setSlot_pidx (k : Slot) (v : DmaSlot) (s : State) : (setSlot k v s).pidx = s.pidx := by
  cases k <;> rfl
@[simp] theorem setSlot_pa (k : Slot) (v : DmaSlot) (s : State) : (setSlot k v s).pa = s.pa := by
  cases k <;> rfl
@[simp] theorem setSlot_lut (k : Slot) (v : DmaSlot) (s : State) : (setSlot k v s).lut = s.lut := by
  cases k <;> rfl
@[simp] theorem setSlot_lidx (k : Slot) (v : DmaSlot) (s : State) : (setSlot k v s).lidx = s.lidx := by
  cases k <;> rfl
@[simp] theorem setSlot_parity (k : Slot) (v : DmaSlot) (s : State) : (setSlot k v s).parity = s.parity := by
  cases k <;> rfl
@[simp] theorem setSlot_errmask (k : Slot) (v : DmaSlot) (s : State) : (setSlot k v s).errmask = s.errmask := by
  cases k <;> rfl
@[simp] theorem setSlot_firsterr (k : Slot) (v : DmaSlot) (s : State) : (setSlot k v s).firsterr = s.firsterr := by
  cases k <;> rfl
@[simp] theorem setSlot_dbgBudget (k : Slot) (v : DmaSlot) (s : State) : (setSlot k v s).dbgBudget = s.dbgBudget := by
  cases k <;> rfl
@[simp] theorem setSlot_dbgHlost (k : Slot) (v : DmaSlot) (s : State) : (setSlot k v s).dbgHlost = s.dbgHlost := by
  cases k <;> rfl
@[simp] theorem setSlot_dbgVlost (k : Slot) (v : DmaSlot) (s : State) : (setSlot k v s).dbgVlost = s.dbgVlost := by
  cases k <;> rfl
@[simp] theorem setSlot_trace (k : Slot) (v : DmaSlot) (s : State) : (setSlot k v s).trace = s.trace := by
  cases k <;> rfl
@[simp] theorem setSlot_cfg (k : Slot) (v : DmaSlot) (s : State) : (setSlot k v s).cfg = s.cfg := by
  cases k <;> rfl
@[simp] theorem setSlot_mem (k : Slot) (v : DmaSlot) (s : State) : (setSlot k v s).mem = s.mem := by
  cases k <;> rfl
@[simp] theorem setSlot_races (k : Slot) (v : DmaSlot) (s : State) : (setSlot k v s).races = s.races := by
  cases k <;> rfl
@[simp] theorem setSlot_freeCtr (k : Slot) (v : DmaSlot) (s : State) : (setSlot k v s).freeCtr = s.freeCtr := by
  cases k <;> rfl
@[simp] theorem setSlot_inputs (k : Slot) (v : DmaSlot) (s : State) : (setSlot k v s).inputs = s.inputs := by
  cases k <;> rfl
@[simp] theorem setSlot_placedWord (k : Slot) (v : DmaSlot) (s : State) :
    (setSlot k v s).placedWord = s.placedWord := by
  cases k <;> rfl
@[simp] theorem setSlot_hostReads (k : Slot) (v : DmaSlot) (s : State) : (setSlot k v s).hostReads = s.hostReads := by
  cases k <;> rfl

@[simp] theorem slotOf_setSlot_same (k : Slot) (v : DmaSlot) (s : State) : slotOf k (setSlot k v s) = v := by
  cases k <;> rfl

theorem slotOf_setSlot_other {j k : Slot} (h : j ≠ k) (v : DmaSlot) (s : State) :
    slotOf j (setSlot k v s) = slotOf j s := by
  cases j <;> cases k <;> first | rfl | exact absurd rfl h

@[simp] theorem slotOf_tileset (s : State) : slotOf .tileset s = s.slot0 := rfl
@[simp] theorem slotOf_tilemap (s : State) : slotOf .tilemap s = s.slot1 := rfl
@[simp] theorem slotOf_palette (s : State) : slotOf .palette s = s.slot2 := rfl

theorem setSlot_tileset (v : DmaSlot) (s : State) : setSlot .tileset v s = { s with slot0 := v } := rfl
theorem setSlot_tilemap (v : DmaSlot) (s : State) : setSlot .tilemap v s = { s with slot1 := v } := rfl
theorem setSlot_palette (v : DmaSlot) (s : State) : setSlot .palette v s = { s with slot2 := v } := rfl

@[simp] theorem emit_renderBase (e : PortEvent) (s : State) : renderBase (emit e s) = renderBase s := rfl
@[simp] theorem emitOp_renderBase (op : DmaOp) (s : State) : renderBase (emitOp op s) = renderBase s := rfl
@[simp] theorem raiseError_renderBase (e : ErrorCode) (s : State) :
    renderBase (raiseError e s) = renderBase s := rfl
@[simp] theorem rewindStrips_renderBase (base : Word) (s : State) :
    renderBase (rewindStrips base s) = renderBase s := rfl
@[simp] theorem advanceStrip_renderBase (s : State) : renderBase (advanceStrip s) = renderBase s := rfl

end Sys2Proof.Laws
end

