-- ==== Sys2Proof/Laws/Ops.lean ====
section
/-! SUPPORT. One lemma for each shared operation that says everything it can change. -/

namespace Sys2Proof.Laws

open Sys2Proof.Machine

/-! ## The queue -/

theorem budgetCheck_frame (s : State) : ∃ n, budgetCheck s = { s with dbgBudget := n } := by
  rw [budgetCheck]
  split
  · exact ⟨_, rfl⟩
  · exact ⟨_, rfl⟩

theorem blankWord_eq (w : Half) (s : State) :
    blankWord w s = { s with trace := s.trace ++ if s.cfg.flushBlank then [.ctrl16 w] else [] } := by
  rw [blankWord]
  split <;> simp [emit]

/-- One slot of the walk: its events, if it is ready, and the slot left not ready with its op kept. -/
theorem flushSlot_eq (k : Slot) (s : State) :
    flushSlot k s = setSlot k ⟨false, (slotOf k s).op⟩
      { s with trace := s.trace ++ if (slotOf k s).ready then opEvents (slotOf k s).op else [] } := by
  rw [flushSlot]
  split
  · next h => simp [emitOp]
  · next h =>
    have hf : (slotOf k s).ready = false := by simpa using h
    have : (⟨false, (slotOf k s).op⟩ : DmaSlot) = slotOf k s := by rw [← hf]
    cases k <;> simp_all [setSlot, slotOf]

/-! ## Strip writes -/

/-- A CPU-path copy appends one DATA event for each word and changes nothing else but the draw counter. -/
theorem copyColors_ok {ks : List Nat} {s s' : State} (h : copyColors ks s = .ok s') :
    ∃ (n : Nat) (ws : List Word), s.freeCtr ≤ n ∧ ws.length = ks.length
      ∧ s' = { s with freeCtr := n, trace := s.trace ++ ws.map .data32 } := by
  induction ks generalizing s with
  | nil =>
    obtain rfl : s = s' := by injection h
    exact ⟨s.freeCtr, [], Nat.le_refl _, rfl, by simp⟩
  | cons k ks ih =>
    rw [copyColors] at h
    split at h
    · cases h
    · next w t hr =>
      obtain ⟨_, n, _, _, _, _, hn, rfl, _⟩ := memRead_ok hr
      obtain ⟨m, ws, hm, hl, rfl⟩ := ih h
      exact ⟨m, w :: ws, hn.trans hm, by simp [hl], by simp [emit]⟩

theorem copyColors_total {ks : List Nat} (s : State) (h : ∀ k ∈ ks, s.hptr.toNat + 4 * k + 3 ≤ 0xFFFFFF) :
    ∃ s', copyColors ks s = .ok s' := by
  induction ks generalizing s with
  | nil => exact ⟨s, rfl⟩
  | cons k ks ih =>
    obtain ⟨w, t, hr⟩ := memRead_total s (h k List.mem_cons_self)
    obtain ⟨_, n, _, _, _, _, _, rfl, _⟩ := memRead_ok hr
    obtain ⟨t, ht⟩ := ih (emit (.data32 w) { s with freeCtr := n }) fun j hj => h j (List.mem_cons_of_mem _ hj)
    exact ⟨t, by rw [copyColors, hr]; exact ht⟩

/-- The op of each burst of a DMA-path strip write. -/
def burstOps (c : Config) (hptr : Word) (dst : Nat) (ranges : List (Nat × Nat)) : List DmaOp :=
  ranges.map fun r =>
    encodeOp (hptr + BitVec.ofNat 32 (2 * r.1)) (cramCommandWord c (dst + 2 * r.1) true) (BitVec.ofNat 32 r.2)

/-- A DMA-path strip write appends the six events of each burst, in order, and changes nothing else. -/
theorem emitBursts_eq (dst : Nat) (ranges : List (Nat × Nat)) (s : State) :
    emitBursts dst ranges s =
      { s with trace := s.trace ++ (burstOps s.cfg s.hptr dst ranges).flatMap opEvents } := by
  induction ranges generalizing s with
  | nil => simp [emitBursts, burstOps]
  | cons r rest ih =>
    rw [emitBursts, ih]
    simp [burstOps, emitOp]

/-- What a strip write can do: events appended, the draw counter possibly moved, and the advance (R125). -/
theorem stripWrite_ok {s s' : State} (h : stripWrite s = .ok s') :
    ∃ (n : Nat) (es : List PortEvent), s.freeCtr ≤ n ∧ s' = advanceStrip { s with freeCtr := n, trace := s.trace ++ es } := by
  rw [stripWrite] at h
  split at h
  · split at h
    · cases h
    · next t ht =>
      obtain ⟨n, ws, hn, _, rfl⟩ := copyColors_ok ht
      cases h
      exact ⟨n, .ctrl32 (cramCommandWord s.cfg (pairAddress s.cfg s.toggle) false) :: ws.map .data32, hn, by simp [emit]⟩
  · cases h
    rw [emitBursts_eq]
    exact ⟨s.freeCtr, _, Nat.le_refl _, rfl⟩

/-- A strip write faults only where the strip reaches past the address space. -/
theorem stripWrite_total (s : State) (h : s.hptr.toNat + 15 ≤ 0xFFFFFF) : ∃ s', stripWrite s = .ok s' := by
  rw [stripWrite]
  split
  · obtain ⟨t, ht⟩ := copyColors_total (ks := [0, 1, 2, 3])
      (emit (.ctrl32 (cramCommandWord s.cfg (pairAddress s.cfg s.toggle) false)) s)
      (by simp only [List.mem_cons, List.not_mem_nil, or_false, emit_hptr]; omega)
    exact ⟨advanceStrip t, by simp only [ht]⟩
  · exact ⟨_, rfl⟩

/-- What a number of strip writes can do. -/
theorem stripWrites_ok {k : Nat} {s s' : State} (h : stripWrites k s = .ok s') :
    ∃ (n : Nat) (es : List PortEvent), s.freeCtr ≤ n ∧ s' = { s with
      freeCtr := n, trace := s.trace ++ es, hstrip := s.hstrip + BitVec.ofNat 8 k
      hptr := s.hptr + BitVec.ofNat 32 (k * s.cfg.stripStride), toggle := s.toggle ^^ decide (k % 2 = 1) } := by
  induction k generalizing s with
  | zero =>
    obtain rfl : s = s' := by injection h
    exact ⟨s.freeCtr, [], Nat.le_refl _, by simp⟩
  | succ k ih =>
    rw [stripWrites] at h
    split at h
    · cases h
    · next t ht =>
      obtain ⟨n, es, hn, rfl⟩ := stripWrite_ok ht
      obtain ⟨m, fs, hm, rfl⟩ := ih h
      refine ⟨m, es ++ fs, hn.trans hm, ?_⟩
      have h1 : s.hstrip + 1#8 + BitVec.ofNat 8 k = s.hstrip + BitVec.ofNat 8 (k + 1) := by
        rw [BitVec.add_assoc, BitVec.add_comm 1#8, BitVec.ofNat_add]
      have h2 : s.hptr + BitVec.ofNat 32 s.cfg.stripStride + BitVec.ofNat 32 (k * s.cfg.stripStride)
          = s.hptr + BitVec.ofNat 32 ((k + 1) * s.cfg.stripStride) := by
        rw [BitVec.add_assoc, ← BitVec.ofNat_add, Nat.succ_mul, Nat.add_comm s.cfg.stripStride]
      have h3 : (!s.toggle ^^ decide (k % 2 = 1)) = (s.toggle ^^ decide ((k + 1) % 2 = 1)) := by
        rcases Nat.mod_two_eq_zero_or_one k with hk | hk <;> cases s.toggle <;> simp [hk, Nat.add_mod]
      simp [advanceStrip, h1, h2, h3]

/-- Strip writes fault only where a strip reaches past the address space. -/
theorem stripWrites_total (k : Nat) (s : State)
    (h : ∀ j, j < k → (s.hptr + BitVec.ofNat 32 (j * s.cfg.stripStride)).toNat + 15 ≤ 0xFFFFFF) :
    ∃ s', stripWrites k s = .ok s' := by
  induction k generalizing s with
  | zero => exact ⟨s, rfl⟩
  | succ k ih =>
    obtain ⟨t, ht⟩ := stripWrite_total s (by simpa using h 0 (by omega))
    obtain ⟨n, es, _, rfl⟩ := stripWrite_ok ht
    obtain ⟨u, hu⟩ := ih (advanceStrip { s with freeCtr := n, trace := s.trace ++ es }) fun j hj => by
      have := h (j + 1) (by omega)
      rw [Nat.succ_mul, Nat.add_comm (j * _), BitVec.ofNat_add, ← BitVec.add_assoc] at this
      exact this
    exact ⟨u, by rw [stripWrites, ht]; exact hu⟩

/-! ## Services -/

theorem outcomeOf_next {r : Except Fault State} {s : State} (h : outcomeOf r = .next s) : r = .ok s := by
  cases r with
  | error f => cases h
  | ok t => cases h; rfl

/-- What BeginFrame can do (R123). -/
theorem beginFrame_ok {s s' : State} (h : beginFrame s = .ok s') :
    ∃ (n : Nat) (es : List PortEvent), s.freeCtr ≤ n ∧ s' = { s with
      freeCtr := n, trace := s.trace ++ es, hline := s.cfg.lineOffset, hstate := .idle
      hstrip := BitVec.ofNat 8 s.cfg.preload
      hptr := renderBase s + BitVec.ofNat 32 (s.cfg.preload * s.cfg.stripStride)
      toggle := decide (s.cfg.preload % 2 = 1) } := by
  obtain ⟨n, es, hn, rfl⟩ := stripWrites_ok h
  exact ⟨n, es, hn, by simp [rewindStrips]⟩

/-- What HintStep can do (R127): count and rest, or count and write one strip. -/
theorem hintStep_ok {s s' : State} (h : hintStep s = .ok s') :
    let line := s.hline + BitVec.ofNat 16 s.cfg.stripHeight
    ((inWindow s.cfg line = false ∨ s.cfg.numStrips ≤ s.hstrip.toNat)
        ∧ s' = { s with hline := line, hstate := .idle })
      ∨ (inWindow s.cfg line = true ∧ s.hstrip.toNat < s.cfg.numStrips
        ∧ ∃ (n : Nat) (es : List PortEvent), s.freeCtr ≤ n ∧ s' = { s with
            hline := line, hstate := .armed, freeCtr := n
            trace := s.trace ++ (.ctrl16 s.cfg.dispOff :: es ++ [.ctrl16 s.cfg.dispOn])
            hstrip := s.hstrip + 1, hptr := s.hptr + BitVec.ofNat 32 s.cfg.stripStride, toggle := !s.toggle }) := by
  intro line
  rw [hintStep] at h
  split at h
  · next hc =>
    cases h
    refine .inl ⟨?_, rfl⟩
    simpa [line] using hc
  · next hc =>
    split at h
    · cases h
    · next t ht =>
      obtain ⟨n, es, hn, rfl⟩ := stripWrite_ok ht
      cases h
      simp only [Bool.or_eq_true, Bool.not_eq_true', decide_eq_true_eq, not_or, Bool.not_eq_false, not_le] at hc
      exact .inr ⟨hc.1, hc.2, n, es, hn, by simp [advanceStrip, emit, line]⟩

/-! ## The pacer -/

/-- What the delta strategy can write (R155). -/
theorem deltaUpdate_frame (t : Word) (s : State) :
    ∃ i a, deltaUpdate t s = { s with pidx := i, pa := a, pt := t } := by
  rw [deltaUpdate]
  split
  · next h => exact ⟨s.pidx, s.pa, by rw [h]⟩
  · split
    · exact ⟨_, _, rfl⟩
    · exact ⟨_, _, rfl⟩

/-- Every built entry of the LUT (R150). -/
theorem lutEntry_built (s : State) {t : Nat} (h : t < s.cfg.maxTicks) (hl : s.lut = builtLut s.cfg) :
    lutEntry s t = BitVec.ofNat 16 (exactIndex s.cfg t) := by
  simp [lutEntry, hl, builtLut, List.getD, h]

end Sys2Proof.Laws
end

