-- ==== Sys2Proof/Laws/Exec.lean ====
section
/-! SUPPORT. One inversion lemma for each instruction: if it answers a next state, then one of these cases holds. -/

namespace Sys2Proof.Laws

open Sys2Proof.Machine

theorem exec_intctl {g v h : Bool} {s t : State} (he : exec (.intctl g v h) s = .next t) :
    ((g && (v || h) && !s.seeded) = true ∧ t = raiseError .unseeded s)
      ∨ ((g && (v || h) && !s.seeded) = false ∧ t = { s with gie := g, vie := v, hie := h }) := by
  rw [exec, execIntctl] at he
  split at he
  · next hc => cases he; exact .inl ⟨hc, rfl⟩
  · next hc => cases he; exact .inr ⟨by simpa using hc, rfl⟩

theorem exec_seed {s t : State} (he : exec .seed s = .next t) :
    (s.gie = true ∧ t = raiseError .live s)
      ∨ (s.gie = false ∧ buffersFit s.arg0 s.arg1 s.cfg.bufferBytes = true ∧ t = { s with
          bufA := s.arg0, bufB := s.arg1, rsel := false, swapPending := false, seeded := true, races := []
          hline := s.cfg.lineOffset, hstrip := 0, hptr := s.arg0, toggle := false, hstate := .idle })
      ∨ (s.gie = false ∧ buffersFit s.arg0 s.arg1 s.cfg.bufferBytes = false ∧ t = raiseError .buf s) := by
  rw [exec, execSeed] at he
  split at he
  · next hg => cases he; exact .inl ⟨hg, rfl⟩
  · next hg =>
    split at he
    · next hb => cases he; exact .inr (.inl ⟨by simpa using hg, hb, rfl⟩)
    · next hb => cases he; exact .inr (.inr ⟨by simpa using hg, by simpa using hb, rfl⟩)

theorem exec_enq {k : Slot} {s t : State} (he : exec (.enq k) s = .next t) :
    (inEncoderDomain s.arg0 s.arg2 = true ∧ t = setSlot k ⟨true, encodeOp s.arg0 s.arg1 s.arg2⟩ s)
      ∨ (inEncoderDomain s.arg0 s.arg2 = false ∧ t = raiseError .arg s) := by
  rw [exec, execEnq] at he
  split at he
  · next hc => cases he; exact .inl ⟨hc, rfl⟩
  · next hc => cases he; exact .inr ⟨by simpa using hc, rfl⟩

/-- What a slot adds to the events of a flush. -/
def flushed (v : DmaSlot) : List PortEvent :=
  if v.ready then opEvents v.op else []

/-- DBG_BUDGET after a non-empty flush (R107). -/
def budgetAfter (s : State) : Word :=
  if s.cfg.flushBudget.toNat < readyBytes s.slot0 + readyBytes s.slot1 + readyBytes s.slot2 then
    saturatingSucc s.dbgBudget
  else s.dbgBudget

/-- FLUSH, written out: nothing where no slot is ready, else the walk (R106). -/
theorem execFlush_eq (s : State) :
    exec .flush s = .next (
      if s.slot0.ready || s.slot1.ready || s.slot2.ready then
        { s with
          trace := s.trace ++ ((if s.cfg.flushBlank then [.ctrl16 s.cfg.dispOff] else [])
            ++ flushed s.slot0 ++ flushed s.slot1 ++ flushed s.slot2
            ++ (if s.cfg.flushBlank then [.ctrl16 s.cfg.dispOn] else []))
          slot0 := ⟨false, s.slot0.op⟩, slot1 := ⟨false, s.slot1.op⟩, slot2 := ⟨false, s.slot2.op⟩
          dbgBudget := budgetAfter s }
      else s) := by
  rw [exec, execFlush]
  split
  · next h =>
    have hb : budgetCheck s = { s with dbgBudget := budgetAfter s } := by
      rw [budgetCheck, budgetAfter]
      split
      · next h => simp only
      · next h => simp only
    simp only [hb, blankWord_eq, flushSlot_eq, slotOf, setSlot, flushed, List.append_assoc]
    rfl
  · next h => simp only

theorem exec_swapreq {s t : State} (he : exec .swapreq s = .next t) : t = { s with swapPending := true } := by
  cases he; rfl

theorem exec_start {k : Strategy} {s t : State} (he : exec (.start k) s = .next t) :
    (s.gie = true ∧ t = raiseError .live s)
      ∨ (s.gie = false ∧ t = { s with
          strat := k, tick := 0, lidx := 0, parity := false, done := false, pt := 0, pidx := 0, pa := 0
          lut := builtLut s.cfg, started := true }) := by
  rw [exec, execStart] at he
  split at he
  · next hg => cases he; exact .inl ⟨hg, rfl⟩
  · next hg => cases he; exact .inr ⟨by simpa using hg, rfl⟩

theorem exec_pace {s t : State} (he : exec .pace s = .next t) :
    (s.started = false ∧ t = raiseError .seq s)
      ∨ (s.started = true ∧ s.cfg.maxTicks ≤ s.arg0.toNat ∧ t = raiseError .range s)
      ∨ (s.started = true ∧ s.arg0.toNat < s.cfg.maxTicks
          ∧ t = { (paceByStrategy s.arg0 s).2 with res := (paceByStrategy s.arg0 s).1 }) := by
  rw [exec, execPace] at he
  split at he
  · next hs => cases he; exact .inl ⟨by simpa using hs, rfl⟩
  · next hs =>
    split at he
    · next hr => cases he; exact .inr (.inl ⟨by simpa using hs, hr, rfl⟩)
    · next hr => cases he; exact .inr (.inr ⟨by simpa using hs, by omega, rfl⟩)

/-- The strategies write PI, PA and PT at most (R155). -/
theorem paceByStrategy_frame (u : Word) (s : State) :
    ∃ i a p, (paceByStrategy u s).2 = { s with pidx := i, pa := a, pt := p } := by
  rw [paceByStrategy]
  split
  · exact ⟨_, _, _, rfl⟩
  · exact ⟨_, _, _, rfl⟩
  · obtain ⟨i, a, h⟩ := deltaUpdate_frame u s
    exact ⟨i, a, u, h⟩
  · exact ⟨_, _, _, rfl⟩

theorem exec_adv {s t : State} (he : exec .adv s = .next t) :
    ((s.started = false ∨ s.done = true) ∧ t = raiseError .seq s)
      ∨ (s.started = true ∧ s.done = false
          ∧ s.cfg.numFrames ≤ nextIndex s.cfg s.lidx.toNat s.arg0.toNat
          ∧ t = { s with res := BitVec.ofNat 32 (nextIndex s.cfg s.lidx.toNat s.arg0.toNat), done := true })
      ∨ (s.started = true ∧ s.done = false
          ∧ nextIndex s.cfg s.lidx.toNat s.arg0.toNat < s.cfg.numFrames
          ∧ t = { s with
              res := BitVec.ofNat 32 (nextIndex s.cfg s.lidx.toNat s.arg0.toNat)
              lidx := BitVec.ofNat 16 (nextIndex s.cfg s.lidx.toNat s.arg0.toNat)
              parity := decide (nextIndex s.cfg s.lidx.toNat s.arg0.toNat % 2 = 1) }) := by
  rw [exec, execAdv] at he
  split at he
  · next hs => cases he; exact .inl ⟨by simpa using hs, rfl⟩
  · next hs =>
    simp only [Bool.or_eq_true, Bool.not_eq_true', not_or, Bool.not_eq_false, Bool.not_eq_true] at hs
    simp only at he
    split at he
    · next hr => cases he; exact .inr (.inl ⟨hs.1, hs.2, hr, rfl⟩)
    · next hr => cases he; exact .inr (.inr ⟨hs.1, hs.2, by omega, rfl⟩)

theorem exec_illegal {w : Word} {s t : State} (he : exec (.illegal w) s = .next t) : t = raiseError .illegal s := by
  cases he; rfl

/-- The state a VINT service begins its frame from: the tick counted and a pending swap made. -/
def swapped (s : State) : State :=
  { s with
    tick := s.tick + 1, rsel := if s.swapPending then !s.rsel else s.rsel, swapPending := false }

theorem swapStep_ticked (s : State) : swapStep { s with tick := s.tick + 1 } = swapped s := by
  rw [swapStep, swapped]
  cases h : s.swapPending
  · simp
  · simp

theorem exec_vint {s t : State} (he : exec .vint s = .next t) :
    (((s.gie && s.vie) = false)
        ∧ t = { s with tick := s.tick + 1, dbgVlost := saturatingSucc s.dbgVlost })
      ∨ (s.gie = true ∧ s.vie = true ∧ beginFrame (swapped s) = .ok t) := by
  rw [exec, execVint] at he
  simp only at he
  split at he
  · next hg =>
    rw [swapStep_ticked] at he
    exact .inr ⟨(Bool.and_eq_true_iff.mp hg).1, (Bool.and_eq_true_iff.mp hg).2, outcomeOf_next he⟩
  · next hg => cases he; exact .inl ⟨by simpa using hg, rfl⟩

theorem exec_hint {s t : State} (he : exec .hint s = .next t) :
    (((s.gie && s.hie) = false) ∧ t = { s with dbgHlost := saturatingSucc s.dbgHlost })
      ∨ (s.gie = true ∧ s.hie = true ∧ hintStep s = .ok t) := by
  rw [exec, execHint] at he
  split at he
  · next hg =>
    exact .inr ⟨(Bool.and_eq_true_iff.mp hg).1, (Bool.and_eq_true_iff.mp hg).2, outcomeOf_next he⟩
  · next hg => cases he; exact .inl ⟨by simpa using hg, rfl⟩

/-- The output rows of the opcode table. -/
def isOutputRow : Instr → Bool
  | .outLenl _ | .outLenh _ | .outAddrl _ | .outAddrm _ | .outAddrh _ => true
  | .outTrigger _ | .outCramcmd _ _ | .outDispOff | .outDispOn | .outColor2 _ _ => true
  | .intctl _ _ _ | .seed | .enq _ | .flush | .swapreq | .start _ | .pace | .adv | .illegal _ | .vint | .hint => false

/-- An output row appends one event. -/
theorem exec_outputRow {i : Instr} (hi : isOutputRow i = true) (s : State) :
    ∃ e, exec i s = .next { s with trace := s.trace ++ [e] } := by
  cases i <;> first | exact ⟨_, rfl⟩ | cases hi

end Sys2Proof.Laws
end

