-- ==== Sys2Proof/Laws/PerInstr.lean ====
section
/-! SUPPORT. Statements made for every instruction, one lemma a constructor: the encoding of each instruction has the format
its row of spec/opcode_table.json names. -/

namespace Sys2Proof.Laws

/-- The formats of spec/opcode_table.json. -/
inductive Format where
  | cmd
  | pulse
  | vdpCtrl16
  | vdpCtrl32
  | vdpData32
deriving DecidableEq, Repr

/-- The format of a signal: a command word (R81), a pulse (R94), or a port word by port and width (R45). -/
def formatOf : Signal → Format
  | .cmd _ => .cmd
  | .vint => .pulse
  | .hint => .pulse
  | .port (.ctrl16 _) => .vdpCtrl16
  | .port (.ctrl32 _) => .vdpCtrl32
  | .port (.data32 _) => .vdpData32

/-- The format of an instruction's row in spec/opcode_table.json. -/
def rowFormat : Instr → Format
  | .intctl _ _ _ => .cmd
  | .seed => .cmd
  | .enq _ => .cmd
  | .flush => .cmd
  | .swapreq => .cmd
  | .start _ => .cmd
  | .pace => .cmd
  | .adv => .cmd
  | .illegal _ => .cmd
  | .vint => .pulse
  | .hint => .pulse
  | .outLenl _ => .vdpCtrl16
  | .outLenh _ => .vdpCtrl16
  | .outAddrl _ => .vdpCtrl16
  | .outAddrm _ => .vdpCtrl16
  | .outAddrh _ => .vdpCtrl16
  | .outTrigger _ => .vdpCtrl32
  | .outCramcmd _ _ => .vdpCtrl32
  | .outDispOff => .vdpCtrl16
  | .outDispOn => .vdpCtrl16
  | .outColor2 _ _ => .vdpData32

/-- Under every configuration the encoding has the format of the row. -/
def EncodeFormat.Statement (i : Instr) : Prop :=
  ∀ c : Config, formatOf (encode c i) = rowFormat i

theorem EncodeFormat.intctl (g v h : Bool) : EncodeFormat.Statement (.intctl g v h) :=
  fun _ => rfl

theorem EncodeFormat.seed : EncodeFormat.Statement (.seed) :=
  fun _ => rfl

theorem EncodeFormat.enq (slot : Slot) : EncodeFormat.Statement (.enq slot) :=
  fun _ => rfl

theorem EncodeFormat.flush : EncodeFormat.Statement (.flush) :=
  fun _ => rfl

theorem EncodeFormat.swapreq : EncodeFormat.Statement (.swapreq) :=
  fun _ => rfl

theorem EncodeFormat.start (strategy : Strategy) : EncodeFormat.Statement (.start strategy) :=
  fun _ => rfl

theorem EncodeFormat.pace : EncodeFormat.Statement (.pace) :=
  fun _ => rfl

theorem EncodeFormat.adv : EncodeFormat.Statement (.adv) :=
  fun _ => rfl

theorem EncodeFormat.illegal (word : Word) : EncodeFormat.Statement (.illegal word) :=
  fun _ => rfl

theorem EncodeFormat.vint : EncodeFormat.Statement (.vint) :=
  fun _ => rfl

theorem EncodeFormat.hint : EncodeFormat.Statement (.hint) :=
  fun _ => rfl

theorem EncodeFormat.outLenl (field : Byte) : EncodeFormat.Statement (.outLenl field) :=
  fun _ => rfl

theorem EncodeFormat.outLenh (field : Byte) : EncodeFormat.Statement (.outLenh field) :=
  fun _ => rfl

theorem EncodeFormat.outAddrl (field : Byte) : EncodeFormat.Statement (.outAddrl field) :=
  fun _ => rfl

theorem EncodeFormat.outAddrm (field : Byte) : EncodeFormat.Statement (.outAddrm field) :=
  fun _ => rfl

theorem EncodeFormat.outAddrh (field : BitVec 7) : EncodeFormat.Statement (.outAddrh field) :=
  fun _ => rfl

theorem EncodeFormat.outTrigger (dest : Word) : EncodeFormat.Statement (.outTrigger dest) :=
  fun _ => rfl

theorem EncodeFormat.outCramcmd (address : BitVec 7) (dma : Bool) : EncodeFormat.Statement (.outCramcmd address dma) :=
  fun _ => rfl

theorem EncodeFormat.outDispOff : EncodeFormat.Statement (.outDispOff) :=
  fun _ => rfl

theorem EncodeFormat.outDispOn : EncodeFormat.Statement (.outDispOn) :=
  fun _ => rfl

theorem EncodeFormat.outColor2 (first second : Half) : EncodeFormat.Statement (.outColor2 first second) :=
  fun _ => rfl

end Sys2Proof.Laws
end

