-- ==== Sys2Proof/Laws/Step.lean ====
section
/-! SUPPORT. What a step can do. -/

namespace Sys2Proof.Laws

open Sys2Proof.Machine

/-- With nothing placed, an input and a well-formed configuration, a step takes the input. -/
theorem step_takes {s : State} {i : Input} {rest : List Input} (hp : s.placedWord = none) (hw : s.cfg.wf = true)
    (hi : s.inputs = i :: rest) : step s = takeInput i { s with inputs := rest } := by
  rw [step, hp, hi]
  exact if_pos hw

theorem step_noInput {s : State} (hp : s.placedWord = none) (hi : s.inputs = []) : step s = .refused .noInput := by
  rw [step, hp, hi]

theorem step_illFormed {s : State} (hw : s.cfg.wf = false) (h : s.placedWord ≠ none ∨ s.inputs ≠ []) :
    step s = .refused .illFormedConfig := by
  rw [step]
  split
  · exact if_neg (by rw [hw]; exact Bool.false_ne_true)
  · next hp hi => exact absurd h (by rw [hp, hi]; simp)
  · exact if_neg (by rw [hw]; exact Bool.false_ne_true)

/-- A placed word runs before any input (log 15). -/
theorem step_placed {s : State} {e : PortEvent} (hw : s.cfg.wf = true) (hp : s.placedWord = some e) :
    step s = runPortWord e { s with placedWord := none } := by
  rw [step, hp]
  exact if_pos hw

/-- A placed word runs as the row it reads as. -/
theorem runPortWord_next {e : PortEvent} {s t : State} (h : runPortWord e s = .next t) :
    ∃ i, decode s.cfg (.port e) = some i ∧ exec i s = .next t := by
  rw [runPortWord] at h
  split at h
  · next i hd => exact ⟨i, hd, h⟩
  · cases h

/-- What a step that answers a next state can do, under a well-formed configuration: run the row of a placed word, or,
with nothing placed, take an input (R200). -/
theorem step_cases {s t : State} (h : step s = .next t) :
    s.cfg.wf = true
      ∧ ((∃ e i, s.placedWord = some e ∧ decode s.cfg (.port e) = some i
          ∧ exec i { s with placedWord := none } = .next t)
        ∨ (s.placedWord = none
          ∧ ∃ i rest, s.inputs = i :: rest ∧ takeInput i { s with inputs := rest } = .next t)) := by
  rw [step] at h
  split at h
  · next e hp =>
    split at h
    · next hw =>
      obtain ⟨i, hd, he⟩ := runPortWord_next h
      exact ⟨hw, .inl ⟨e, i, hp, hd, he⟩⟩
    · cases h
  · cases h
  · next i rest hp hi =>
    split at h
    · next hw => exact ⟨hw, .inr ⟨hp, i, rest, hi, h⟩⟩
    · cases h

/-- With nothing placed, every step that answers a next state took an input (R200). -/
theorem step_next {s t : State} (hp : s.placedWord = none) (h : step s = .next t) :
    s.cfg.wf = true ∧ ∃ i rest, s.inputs = i :: rest ∧ takeInput i { s with inputs := rest } = .next t := by
  obtain ⟨hw, ⟨e, _, he, _⟩ | ⟨_, hi⟩⟩ := step_cases h
  · rw [hp] at he; cases he
  · exact ⟨hw, hi⟩

/-- A placed command word becomes the next input (log 3). -/
theorem withFetchWord_command (s : State) (w : Nat) : s.withFetchWord 32 w
    = { s with placedWord := none, inputs := .hostWrite 0x00#8 .bits32 (BitVec.ofNat 32 w) :: s.inputs } := rfl

/-- A placed output word runs before any input (log 15). -/
theorem withFetchWord_output (s : State) (w : Nat) :
    s.withFetchWord 16 w = { s with placedWord := some (.ctrl16 (BitVec.ofNat 16 w)) } := rfl

/-- A good write to CMD executes the command it decodes to. -/
theorem hostWrite_command (w : Word) (s : State) :
    hostWrite 0x00#8 .bits32 w s = exec (decodeCommand w) s := rfl

/-- A placed word that reads as a row runs as that row. -/
theorem runPortWord_row {e : PortEvent} {i : Instr} {s : State} (h : decode s.cfg (.port e) = some i) :
    runPortWord e s = exec i s := by
  rw [runPortWord, h]

/-- What a host write can do: run the command of the word, write one argument register, or record Err(7). -/
theorem hostWrite_cases {offset : Byte} {width : AccessWidth} {value : Word} {s t : State}
    (h : hostWrite offset width value s = .next t) :
    exec (decodeCommand value) s = .next t
      ∨ t = { s with arg0 := value } ∨ t = { s with arg1 := value } ∨ t = { s with arg2 := value }
      ∨ t = raiseError .badacc s := by
  rw [hostWrite] at h
  split at h
  · split at h
    · exact .inl h
    · split at h
      · cases h; exact .inr (.inl rfl)
      · split at h
        · cases h; exact .inr (.inr (.inl rfl))
        · split at h
          · cases h; exact .inr (.inr (.inr (.inl rfl)))
          · cases h; exact .inr (.inr (.inr (.inr rfl)))
  · cases h; exact .inr (.inr (.inr (.inr rfl)))

/-- What a host read can do: return a value, with Err(7) recorded or not. -/
theorem hostRead_cases (offset : Byte) (width : AccessWidth) (s : State) :
    (∃ v, hostRead offset width s = { s with hostReads := s.hostReads ++ [v] })
      ∨ hostRead offset width s = { raiseError .badacc s with hostReads := s.hostReads ++ [0#32] } := by
  rw [hostRead]
  split
  · exact .inl ⟨_, rfl⟩
  · exact .inr rfl

/-- What a host store can do: record Err(7) inside the register window, or store one byte. -/
theorem hostStore_cases (address : BitVec 24) (value : Byte) (s : State) :
    (inRegisterWindow s.cfg address.toNat = true ∧ hostStore address value s = raiseError .badacc s)
      ∨ (inRegisterWindow s.cfg address.toNat = false ∧ hostStore address value s = { s with
          mem := s.mem.store address.toNat value, races := racesAfterStore address.toNat s }) := by
  rw [hostStore]
  split
  · next h => exact .inl ⟨h, rfl⟩
  · next h => exact .inr ⟨by simpa using h, rfl⟩

end Sys2Proof.Laws
end

