-- ==== Sys2Proof/Laws/WellFormed.lean ====
section
/-! SUPPORT. What a well-formed configuration gives (R7), one fact a lemma, and the window count of W5 as the spec words
it. -/

namespace Sys2Proof.Laws

/-- Every check of R7, taken apart once. -/
theorem wf_parts {c : Config} (h : c.wf = true) :
    c.rangesOk = true ∧ c.cramCommandTotal = true ∧ c.w1 = true ∧ c.w2 = true ∧ c.w3 = true ∧ c.w4 = true
      ∧ c.w5 = true ∧ c.w6 = true ∧ c.w7 = true := by
  simpa only [Config.wf, Bool.and_eq_true, and_assoc] using h

theorem wf_ranges {c : Config} (h : c.wf = true) :
    c.base.toNat % 256 = 0 ∧ c.recipShift ≤ 32 ∧ c.recipMul < 2 ^ 32 ∧ c.preload ≤ 2
      ∧ (1 ≤ c.numStrips ∧ c.numStrips ≤ 255) ∧ (1 ≤ c.stripHeight ∧ c.stripHeight ≤ 255) ∧ c.refresh ≤ 256 := by
  have h1 := (wf_parts h).1
  simpa only [Config.rangesOk, Bool.and_eq_true, decide_eq_true_eq, and_assoc] using h1

theorem wf_rates {c : Config} (h : c.wf = true) : 1 ≤ c.targetRate ∧ c.targetRate ≤ c.refresh := by
  have h1 := (wf_parts h).2.2.1
  simpa only [Config.w1, Bool.and_eq_true, decide_eq_true_eq] using h1

theorem wf_refresh_pos {c : Config} (h : c.wf = true) : 0 < c.refresh := by
  have := wf_rates h; omega

theorem wf_frames {c : Config} (h : c.wf = true) :
    1 ≤ c.numFrames ∧ c.numFrames ≤ 65535 ∧ c.maxTicks ≤ 65535 * 60 := by
  have h1 := (wf_parts h).2.2.2.1
  simpa only [Config.w2, Bool.and_eq_true, decide_eq_true_eq, and_assoc] using h1

/-- W3: the reciprocal is exact on every supported tick. -/
theorem wf_reciprocal {c : Config} (h : c.wf = true) {t : Nat} (ht : t < c.maxTicks) :
    (t * c.recipMul) >>> c.recipShift = t * c.targetRate / c.refresh := by
  have h1 := (wf_parts h).2.2.2.2.1
  rw [Config.w3, List.all_eq_true] at h1
  exact beq_iff_eq.mp (h1 t (List.mem_range.mpr ht))

theorem wf_preload {c : Config} (h : c.wf = true) : c.preload ≤ c.numStrips := by
  have h1 := (wf_parts h).2.2.2.2.2.1
  simpa only [Config.w4, decide_eq_true_eq] using h1

theorem wf_window {c : Config} (h : c.wf = true) (std : Std) :
    (c.windowOf std).first < (c.windowOf std).last ∧ c.windowOpportunities std = c.numStrips - c.preload := by
  have h1 := (wf_parts h).2.2.2.2.2.2.1
  rw [Config.w5, Bool.and_eq_true] at h1
  cases std
  · simpa only [Config.w5For, Bool.and_eq_true, decide_eq_true_eq] using h1.1
  · simpa only [Config.w5For, Bool.and_eq_true, decide_eq_true_eq] using h1.2

theorem wf_stride {c : Config} (h : c.wf = true) :
    c.stripStride % 2 = 0 ∧ 16 ≤ c.stripStride ∧ c.bufferBytes ≤ 131072 := by
  have h1 := (wf_parts h).2.2.2.2.2.2.2.1
  simpa only [Config.w6, Bool.and_eq_true, decide_eq_true_eq, and_assoc] using h1

theorem wf_pairs {c : Config} (h : c.wf = true) :
    c.pairAddr0 % 2 = 0 ∧ c.pairAddr1 % 2 = 0 ∧ c.pairAddr0 ≤ 112 ∧ c.pairAddr1 ≤ 112
      ∧ (c.pairAddr0 + 16 ≤ c.pairAddr1 ∨ c.pairAddr1 + 16 ≤ c.pairAddr0) := by
  have h1 := (wf_parts h).2.2.2.2.2.2.2.2
  simpa only [Config.w7, Bool.and_eq_true, decide_eq_true_eq, and_assoc] using h1

/-- The first tick that is not supported has the exact index NF or more, and every supported tick has less (R156). -/
theorem exact_lt_numFrames {c : Config} (h : c.wf = true) {t : Nat} (ht : t < c.maxTicks) :
    t * c.targetRate / c.refresh < c.numFrames := by
  have ⟨hT, _⟩ := wf_rates h
  have hR := wf_refresh_pos h
  rw [Nat.div_lt_iff_lt_mul hR]
  have hle : t + 1 ≤ (c.numFrames * c.refresh + c.targetRate - 1) / c.targetRate := ht
  rw [Nat.le_div_iff_mul_le (by omega)] at hle
  have : (t + 1) * c.targetRate = t * c.targetRate + c.targetRate := by ring
  omega

theorem maxTicks_pos {c : Config} (h : c.wf = true) : 0 < c.maxTicks := by
  have ⟨hT, hTR⟩ := wf_rates h
  have ⟨hN, _, _⟩ := wf_frames h
  have : 1 * 1 ≤ c.numFrames * c.refresh := Nat.mul_le_mul hN (by omega)
  exact Nat.div_pos (by omega) (by omega)

/-- W5 in the spec's words: `windowOpportunities` is the number of j in 1..J whose counter value lies in the window. -/
theorem windowOpportunities_eq_count (c : Config) (std : Std) (hH : 0 < c.stripHeight) :
    c.windowOpportunities std =
      ((Finset.Icc 1 c.lineSteps).filter fun j =>
        (c.windowOf std).first.toNat ≤ c.lineOffset.toNat + j * c.stripHeight
          ∧ c.lineOffset.toNat + j * c.stripHeight ≤ (c.windowOf std).last.toNat).card := by
  have hset : ((Finset.Icc 1 c.lineSteps).filter fun j =>
        (c.windowOf std).first.toNat ≤ c.lineOffset.toNat + j * c.stripHeight
          ∧ c.lineOffset.toNat + j * c.stripHeight ≤ (c.windowOf std).last.toNat)
      = Finset.Icc
          (max 1 (((c.windowOf std).first.toNat - c.lineOffset.toNat + c.stripHeight - 1) / c.stripHeight))
          (min c.lineSteps (((c.windowOf std).last.toNat - c.lineOffset.toNat) / c.stripHeight)) := by
    ext j
    simp only [Finset.mem_filter, Finset.mem_Icc, max_le_iff, le_min_iff, Nat.le_div_iff_mul_le hH]
    rw [← Nat.lt_succ_iff (m := (_ - _ + c.stripHeight - 1) / _), Nat.div_lt_iff_lt_mul hH, Nat.succ_mul]
    constructor
    · rintro ⟨⟨h1, h2⟩, h3, h4⟩
      refine ⟨⟨h1, ?_⟩, h2, ?_⟩ <;> omega
    · rintro ⟨⟨h1, h2⟩, h3, h4⟩
      have : c.stripHeight ≤ j * c.stripHeight := Nat.le_mul_of_pos_left _ h1
      refine ⟨⟨h1, h3⟩, ?_, ?_⟩ <;> omega
  rw [hset, Nat.card_Icc]
  rfl

end Sys2Proof.Laws
end

