-- ==== Sys2Proof/Tests/Slice0.lean ====
section
/-! SUPPORT. Tests. Words are written out from 30_encoding.md; expected results are those of the vectors V1 to V78 of
95_test_vectors.md, named in each docstring. The last part shows, for every statement with hypotheses, a concrete case that
meets them. -/

namespace Sys2Proof.Tests

open Sys2Proof Sys2Proof.Machine Sys2Proof.Spec

/-! ## Well-formed configurations: one ill-formed term for each check -/

/-- CFG-A. -/
abbrev cfgA : Config := Config.reference

/-- CFG-B. -/
def cfgB : Config := { Config.reference with
  std := .pal, recipMul := 5033165, numStrips := 2, windowNtsc := ⟨7, 15⟩, windowPal := ⟨7, 15⟩, path := .dma .three }

theorem test_cfgA_is_wellFormed : cfgA.wf = true := by decide
theorem test_cfgB_is_wellFormed : cfgB.wf = true := by decide

theorem test_base_off_256_refused : ({ cfgA with base := 0xA15080 } : Config).wf = false := by decide
theorem test_recipShift_33_refused : ({ cfgA with recipShift := 33 } : Config).rangesOk = false := by decide
theorem test_recipMul_33_bits_refused : ({ cfgA with recipMul := 4294967296 } : Config).rangesOk = false := by decide
theorem test_preload_3_refused : ({ cfgA with preload := 3 } : Config).rangesOk = false := by decide
theorem test_no_strips_refused : ({ cfgA with numStrips := 0 } : Config).rangesOk = false := by decide
theorem test_256_strips_refused : ({ cfgA with numStrips := 256 } : Config).rangesOk = false := by decide
theorem test_stripHeight_0_refused : ({ cfgA with stripHeight := 0 } : Config).rangesOk = false := by decide
theorem test_stripHeight_256_refused : ({ cfgA with stripHeight := 256 } : Config).rangesOk = false := by decide
theorem test_refresh_257_refused : ({ cfgA with refreshNtsc := 257 } : Config).rangesOk = false := by decide
theorem test_short_cram_table_refused :
    ({ cfgA with cramCommand := .listed [0] [0] } : Config).cramCommandTotal = false := by decide
theorem test_w1_zero_rate_refused : ({ cfgA with targetRate := 0 } : Config).w1 = false := by decide
theorem test_w1_rate_above_refresh_refused : ({ cfgA with targetRate := 61 } : Config).w1 = false := by decide
theorem test_w2_no_frames_refused : ({ cfgA with numFrames := 0 } : Config).w2 = false := by decide
theorem test_w2_65536_frames_refused : ({ cfgA with numFrames := 65536 } : Config).w2 = false := by decide
theorem test_w3_wrong_reciprocal_refused : ({ cfgA with recipMul := 4194303 } : Config).w3 = false := by decide
theorem test_w4_preload_above_strips_refused :
    ({ cfgA with preload := 2, numStrips := 1 } : Config).w4 = false := by decide
theorem test_w5_empty_window_refused : ({ cfgA with windowNtsc := ⟨31, 31⟩ } : Config).w5 = false := by decide
theorem test_w5_holds_for_both_standards : ({ cfgA with windowPal := ⟨7, 23⟩ } : Config).wf = false := by decide
theorem test_w6_odd_stride_refused : ({ cfgA with stripStride := 17 } : Config).w6 = false := by decide
theorem test_w6_stride_14_refused : ({ cfgA with stripStride := 14 } : Config).w6 = false := by decide
theorem test_w6_long_buffer_refused : ({ cfgA with stripStride := 32770 } : Config).w6 = false := by decide
theorem test_w7_odd_pair_refused : ({ cfgA with pairAddr0 := 1 } : Config).w7 = false := by decide
theorem test_w7_pair_114_refused : ({ cfgA with pairAddr1 := 114 } : Config).w7 = false := by decide
theorem test_w7_near_pairs_refused : ({ cfgA with pairAddr1 := 14 } : Config).wf = false := by decide

/-! ## Well-formed instructions -/

theorem test_illegal_command_word_refused : (Instr.illegal 0x03000002#32).wf cfgA = false := by decide
theorem test_illegal_slot_3_accepted : (Instr.illegal 0x03000003#32).wf cfgA = true := by decide
theorem test_dispOff_as_length_word_refused :
    Instr.outDispOff.wf { cfgA with dispOff := 0x9334#16 } = false := by decide
theorem test_dispOn_like_dispOff_refused : Instr.outDispOn.wf { cfgA with dispOn := 0x8134#16 } = false := by decide
theorem test_cramcmd_reads_as_trigger : (Instr.outCramcmd 0#7 false).wf cfgA = false := by decide

/-! ## Decoding: words written out from R83, R84 and R86 -/

theorem test_decode_intctl : decodeCommand 0b00000001_00000000_00000000_00000110#32 = .intctl false true true := by decide
theorem test_decode_seed : decodeCommand 0b00000010_00000000_00000000_00000000#32 = .seed := by decide
theorem test_decode_enq : decodeCommand 0b00000011_00000000_00000000_00000001#32 = .enq .tilemap := by decide
theorem test_decode_flush : decodeCommand 0b00000100_00000000_00000000_00000000#32 = .flush := by decide
theorem test_decode_swapreq : decodeCommand 0b00000101_00000000_00000000_00000000#32 = .swapreq := by decide
theorem test_decode_start : decodeCommand 0b00000110_00000000_00000000_00000010#32 = .start .delta := by decide
theorem test_decode_pace : decodeCommand 0b00000111_00000000_00000000_00000000#32 = .pace := by decide
theorem test_decode_adv : decodeCommand 0b00001000_00000000_00000000_00000000#32 = .adv := by decide
/-- V18, V26, V29a, V56, V70, V78 and the slot 3 of section 3.1. -/
theorem test_decode_illegal :
    [0x04000001#32, 0x02000001#32, 0x01000008#32, 0x07000001#32, 0x05000100#32, 0x00000000#32, 0x09000000#32,
      0x03000003#32, 0x03000004#32].all (fun w => decodeCommand w == .illegal w) = true := by decide
theorem test_decode_pulses : decode cfgA .vint = some .vint ∧ decode cfgA .hint = some .hint := by decide
theorem test_decode_lenl : decode cfgA (.port (.ctrl16 0b10010011_00100000#16)) = some (.outLenl 0x20#8) := by decide
theorem test_decode_lenh : decode cfgA (.port (.ctrl16 0b10010100_00000001#16)) = some (.outLenh 0x01#8) := by decide
theorem test_decode_addrl : decode cfgA (.port (.ctrl16 0b10010101_00011010#16)) = some (.outAddrl 0x1A#8) := by decide
theorem test_decode_addrm : decode cfgA (.port (.ctrl16 0b10010110_10001001#16)) = some (.outAddrm 0x89#8) := by decide
theorem test_decode_addrh : decode cfgA (.port (.ctrl16 0b10010111_01111111#16)) = some (.outAddrh 0x7F#7) := by decide
/-- Bit 7 of ADDRH is always 0 (R84). -/
theorem test_decode_addrh_bit7 : decode cfgA (.port (.ctrl16 0b10010111_10000000#16)) = none := by decide
theorem test_decode_dispOff : decode cfgA (.port (.ctrl16 0b10000001_00110100#16)) = some .outDispOff := by decide
theorem test_decode_dispOn : decode cfgA (.port (.ctrl16 0b10000001_01110100#16)) = some .outDispOn := by decide
theorem test_decode_trigger : decode cfgA (.port (.ctrl32 0x40000080#32)) = some (.outTrigger 0x40000080#32) := by decide
theorem test_decode_color2 :
    decode cfgA (.port (.data32 0x01000101#32)) = some (.outColor2 0x0100#16 0x0101#16) := by decide
/-- V41 and V31: the words of the color-memory commands. -/
theorem test_cramcmd_words :
    encode cfgA (.outCramcmd 6#7 true) = .port (.ctrl32 0xC0060080#32)
      ∧ encode cfgA (.outCramcmd 64#7 false) = .port (.ctrl32 0xC0400000#32) := by decide

/-! ## One step -/

/-- The first strips of MEM0 of 95_test_vectors.md: colors 0x0100 + i in buffer A, 0x0200 + i in buffer B. -/
def mem0 : Memory :=
  ((List.range 32).map fun k => (0xFF8000 + k, if k % 2 = 0 then 1#8 else BitVec.ofNat 8 (k / 2)))
    ++ (List.range 16).map fun k => (0xFF8100 + k, if k % 2 = 0 then 2#8 else BitVec.ofNat 8 (k / 2))

/-- S0 with the argument registers set. -/
def args (a0 a1 a2 : Word) : State := { State.reset with arg0 := a0, arg1 := a1, arg2 := a2 }

/-- After SEED V19, START 3 and INTCTL 1,1,1, with MEM0. -/
def playing : State := { State.reset with
  mem := mem0, gie := true, vie := true, hie := true, seeded := true, started := true
  bufA := 0xFF8000, bufB := 0xFF8100, hptr := 0xFF8000, lut := builtLut cfgA }

/-- One field of the next state of an instruction. -/
def after {α : Type} (i : Instr) (s : State) (f : State → α) : Option α :=
  match exec i s with
  | .next t => some (f t)
  | _ => none

/-- One field of the next state of a step with one input. -/
def stepped {α : Type} (i : Input) (s : State) (f : State → α) : Option α :=
  match step { s with inputs := [i] } with
  | .next t => some (f t)
  | _ => none

/-- V29b. -/
theorem test_intctl_enables :
    after (.intctl true true true) { playing with gie := false, vie := false, hie := false }
      (fun t => (statusWord t).extractLsb' 0 3) = some 7#3 := by decide
/-- V27. -/
theorem test_intctl_unseeded :
    after (.intctl true true true) State.reset (fun t => (errorWord t, t.gie)) = some (0x00000510#32, false) := by decide
/-- V19. -/
theorem test_seed_installs :
    after .seed (args 0xFF8000 0xFF8100 0) (fun t => (t.bufA, t.bufB, t.hptr, t.seeded))
      = some (0xFF8000#32, 0xFF8100#32, 0xFF8000#32, true) := by decide
/-- V20 to V24. -/
theorem test_seed_bad_buffers :
    [(0xFF8000, 0xFF8000), (0xFF8000, 0xFF8020), (0xFF8001, 0xFF8100), (0x01FFE0, 0xFF8100), (0xFFFFE0, 0xFF8100)].all
      (fun p => after .seed (args p.1 p.2 0) (fun t => (t.errmask, t.seeded)) == some (4#8, false)) = true := by decide
/-- V2. -/
theorem test_enq_words :
    after (.enq .tilemap) (args 0xFF1234 0x60000082 0x0120) (fun t => t.slot1)
      = some ⟨true, ⟨0x9320, 0x9401, 0x951A, 0x9689, 0x977F, 0x60000082⟩⟩ := by decide
/-- V7 to V11a. -/
theorem test_enq_outside_domain :
    [(0x01FFFE, 2), (0xFF0001, 1), (0xFF0000, 0), (0xFF0000, 0x10000), (0x1000000, 1), (0xFFFFFE, 2)].all
      (fun p => after (.enq .tileset) (args p.1 0 p.2) (fun t => (t.errmask, t.slot0.ready)) == some (2#8, false)) = true := by
  decide

/-- V1 in slot 0 and V2 in slot 1. -/
def queued : State := { State.reset with
  slot0 := ⟨true, ⟨0x9300, 0x9408, 0x9500, 0x9680, 0x977F, 0x40000080⟩⟩
  slot1 := ⟨true, ⟨0x9320, 0x9401, 0x951A, 0x9689, 0x977F, 0x60000082⟩⟩ }

/-- V13. -/
theorem test_flush_events :
    after .flush { queued with slot1 := DmaSlot.empty } (fun t => (t.trace, t.dbgBudget, t.slot0.ready))
      = some ([.ctrl16 0x8134, .ctrl16 0x9300, .ctrl16 0x9408, .ctrl16 0x9500, .ctrl16 0x9680, .ctrl16 0x977F,
        .ctrl32 0x40000080, .ctrl16 0x8174], 0, false) := by decide
/-- V16. -/
theorem test_flush_over_budget :
    after .flush queued (fun t => (t.trace.length, t.dbgBudget)) = some (14, 1) := by decide
/-- V68. -/
theorem test_swapreq_pends :
    after .swapreq playing (fun t => ((statusWord t).getLsbD 5, t.rsel)) = some (true, false) := by decide
/-- X2: the table START 3 builds. -/
theorem test_start_table :
    after (.start .table) State.reset (fun t => t.lut.map BitVec.toNat)
      = some [0, 0, 0, 0, 1, 1, 1, 1, 2, 2, 2, 2, 3, 3, 3, 3] := by decide
/-- V53. -/
theorem test_start_live :
    after (.start .table) playing (fun t => (t.errmask, t.tick, t.strat)) = some (8#8, 0#32, .table) := by decide
/-- V50, from the state V49 leaves. -/
theorem test_pace_delta :
    after .pace { playing with strat := .delta, arg0 := 13, pt := 5, pidx := 1, pa := 15 }
      (fun t => (t.res, t.pt, t.pidx, t.pa)) = some (3#32, 13#32, 3#16, 15#8) := by decide
/-- V55 at t = 13 and V51. -/
theorem test_pace_reciprocal_and_range :
    after .pace { playing with cfg := cfgB, strat := .reciprocal, arg0 := 13 } (fun t => t.res) = some 3#32
      ∧ after .pace { playing with arg0 := 16, res := 7 } (fun t => (t.res, t.errmask)) = some (7#32, 32#8) := by decide
/-- V59. -/
theorem test_adv_shortens_even_jump :
    after .adv { playing with lidx := 1, parity := true, arg0 := 3 } (fun t => (t.lidx, t.parity, t.res))
      = some (2#16, false, 2#32) := by decide
/-- V62 and V66. -/
theorem test_adv_ends_the_video :
    after .adv { playing with lidx := 3, parity := true, arg0 := 3 } (fun t => (t.lidx, t.done, t.res))
        = some (3#16, true, 4#32)
      ∧ after .adv { playing with arg0 := 0xFFFFFFFF } (fun t => (t.done, t.res)) = some (true, 0xFFFFFFFF#32) := by decide
/-- R90, R207: the first code stays in FIRSTERR. -/
theorem test_illegal_keeps_first_error :
    after (.illegal 0x09000000#32) { State.reset with errmask := 16, firsterr := 5 } errorWord = some 0x00000511#32 := by
  decide
/-- V38. -/
theorem test_vint_swaps :
    after .vint { playing with swapPending := true } (fun t => (t.trace, t.rsel, t.hptr, t.hstrip, t.toggle))
      = some ([.ctrl32 0xC0000000, .data32 0x02000201, .data32 0x02020203, .data32 0x02040205, .data32 0x02060207],
        true, 0xFF8110#32, 1#8, true) := by decide
/-- V39. -/
theorem test_vint_masked :
    after .vint { playing with gie := false } (fun t => (t.tick, t.dbgVlost, t.trace)) = some (1#32, 1#16, []) := by decide
/-- V31. -/
theorem test_hint_writes_a_strip :
    after .hint { playing with hstrip := 1, hptr := 0xFF8010, toggle := true }
      (fun t => (t.trace, t.hline, t.hptr, t.toggle, t.hstate))
      = some ([.ctrl16 0x8134, .ctrl32 0xC0400000, .data32 0x01080109, .data32 0x010A010B, .data32 0x010C010D,
        .data32 0x010E010F, .ctrl16 0x8174], 8#16, 0xFF8020#32, false, .armed) := by decide
/-- V42. -/
theorem test_hint_dma_bursts :
    after .hint { playing with cfg := cfgB, hstrip := 1, hptr := 0xFF8010, toggle := true } (fun t => t.trace)
      = some [.ctrl16 0x8134,
        .ctrl16 0x9303, .ctrl16 0x9400, .ctrl16 0x9508, .ctrl16 0x96C0, .ctrl16 0x977F, .ctrl32 0xC0400080,
        .ctrl16 0x9303, .ctrl16 0x9400, .ctrl16 0x950B, .ctrl16 0x96C0, .ctrl16 0x977F, .ctrl32 0xC0460080,
        .ctrl16 0x9302, .ctrl16 0x9400, .ctrl16 0x950E, .ctrl16 0x96C0, .ctrl16 0x977F, .ctrl32 0xC04C0080,
        .ctrl16 0x8174] := by decide

/-- The words of V2, one output row each. -/
theorem test_output_rows :
    after (.outLenl 0x20) State.reset (·.trace) = some [.ctrl16 0x9320]
      ∧ after (.outLenh 0x01) State.reset (·.trace) = some [.ctrl16 0x9401]
      ∧ after (.outAddrl 0x1A) State.reset (·.trace) = some [.ctrl16 0x951A]
      ∧ after (.outAddrm 0x89) State.reset (·.trace) = some [.ctrl16 0x9689]
      ∧ after (.outAddrh 0x7F) State.reset (·.trace) = some [.ctrl16 0x977F]
      ∧ after (.outTrigger 0x60000082) State.reset (·.trace) = some [.ctrl32 0x60000082]
      ∧ after (.outCramcmd 12 true) State.reset (·.trace) = some [.ctrl32 0xC00C0080]
      ∧ after .outDispOff State.reset (·.trace) = some [.ctrl16 0x8134]
      ∧ after .outDispOn State.reset (·.trace) = some [.ctrl16 0x8174]
      ∧ after (.outColor2 0x0100 0x0101) State.reset (·.trace) = some [.data32 0x01000101] := by decide

/-- V71, V76. -/
theorem test_reads :
    stepped (.hostRead 0x00 .bits32) State.reset (fun t => (t.hostReads, t.errmask)) = some ([0#32], 0#8)
      ∧ stepped (.hostRead 0x14 .bits32) State.reset (·.hostReads) = some [0x0000C000#32] := by decide
/-- V73, V74, V75. -/
theorem test_bad_reads :
    [0x5C#8, 0xA0#8, 0x06#8].all (fun o =>
      stepped (.hostRead o .bits32) State.reset (fun t => (t.hostReads, t.errmask)) == some ([0#32], 64#8)) = true := by
  decide
/-- V72, V75. -/
theorem test_bad_writes :
    stepped (.hostWrite 0x10 .bits32 5) State.reset (fun t => (t.res, t.errmask)) = some (0#32, 64#8)
      ∧ stepped (.hostWrite 0x04 .bits16 5) State.reset (fun t => (t.arg0, t.errmask)) = some (0#32, 64#8) := by decide
/-- V77: DBG_LOST of the counters it names. -/
theorem test_lost_register :
    stepped (.hostRead 0x3C .bits32) { State.reset with dbgVlost := 2, dbgHlost := 1 } (·.hostReads)
      = some [0x00020001#32] := by decide
/-- The STATUS words of the end states of P2, P3 and P4. -/
theorem test_status_words :
    statusWord playing = 0x0000C01F#32
      ∧ statusWord { playing with rsel := true, parity := true, toggle := true } = 0x0000E0DF#32
      ∧ statusWord { playing with errmask := 0x80, done := true, parity := true } = 0x0001C19F#32 := by decide
/-- A table word placed by `withFetchWord` runs as the first step after reset. -/
theorem test_fetch_word_runs :
    (match step (State.reset.withFetchWord 32 0x05000000) with | .next t => t.swapPending | _ => false) = true
      ∧ (match step (State.reset.withFetchWord 16 0x9412) with | .next t => t.trace | _ => []) = [.ctrl16 0x9412] := by
  decide
/-- R230: reset clears what playing set. -/
theorem test_reset_input :
    stepped .reset { playing with errmask := 1 } (fun t => (statusWord t, t.hptr, t.mem == mem0))
      = some (0x0000C000#32, 0#32, true) := by decide

/-! ## The statements' hypotheses can be met -/

/-- The invariants hold in a state that plays. -/
theorem test_playing_inv : Inv playing where
  wf := test_cfgA_is_wellFormed
  placed := rfl
  mem := by decide
  parity := by decide
  strips := by decide
  pointer := by decide
  resting := by decide
  enables := by decide
  frame := by decide
  slots := fun k h => by cases k <;> cases h
  buffers := by decide
  pair := by decide
  deltaTick := by decide
  deltaIndex := by decide
  deltaRemainder := by decide
  lut := by
    intro _ t ht
    have ht : t < 16 := ht
    interval_cases t <;> decide
  noError := by decide
  firstError := by decide

/-- The instructions that share no word with another row, at the boundary of each class. -/
theorem test_witness_DecodeOfEncodeIsTheInstruction :
    (Instr.illegal 0x00000000#32).wf cfgA = true ∧ (Instr.illegal 0x01000008#32).wf cfgA = true
      ∧ (Instr.illegal 0x03000003#32).wf cfgA = true ∧ (Instr.illegal 0xFFFFFFFF#32).wf cfgA = true
      ∧ Instr.outDispOff.wf cfgA = true ∧ Instr.outDispOn.wf cfgA = true ∧ (Instr.outAddrh 0x7F#7).wf cfgA = true := by
  decide

theorem test_witness_EncodeOfDecodeIsTheWord :
    decode cfgA (.port (.ctrl16 0x977F#16)) = some (.outAddrh 0x7F#7)
      ∧ decode cfgA (.port (.ctrl16 0x8174#16)) = some .outDispOn
      ∧ decode cfgA (.port (.data32 0xFFFFFFFF#32)) = some (.outColor2 0xFFFF#16 0xFFFF#16) := by decide

/-- The last word before each row of the opcode map and the first after it, and a word of it. -/
theorem test_witness_IllegalWordsAreTheOthers :
    ¬ InOpcodeMap 0x00FFFFFF ∧ InOpcodeMap 0x01000000 ∧ InOpcodeMap 0x01000007 ∧ ¬ InOpcodeMap 0x01000008
      ∧ InOpcodeMap 0x03000002 ∧ ¬ InOpcodeMap 0x03000003 ∧ InOpcodeMap 0x06000003 ∧ ¬ InOpcodeMap 0x06000004
      ∧ InOpcodeMap 0x08000000 ∧ ¬ InOpcodeMap 0x08000001 := by
  unfold InOpcodeMap; omega

theorem test_witness_DefaultCramCommandWord : cfgA.cramCommand = .vdpDefault ∧ 0 < 128 ∧ 127 < 128 := by decide

/-- One state for each of the three kinds of input that run an instruction, and one with a placed word. -/
theorem test_witness_StepRunsTheInstructionOfItsInput :
    ∃ s1 s2 s3 s4 : State, s1.cfg.wf = true ∧ s2.cfg.wf = true ∧ s3.cfg.wf = true ∧ s4.cfg.wf = true
      ∧ s1.placedWord = none ∧ s2.placedWord = none ∧ s3.placedWord = none
      ∧ s1.inputs = [.hostWrite 0x00#8 .bits32 0xFFFFFFFF#32] ∧ s2.inputs = [.vint] ∧ s3.inputs = [.hint]
      ∧ s4.placedWord = some (.ctrl16 0x9300#16) ∧ decode s4.cfg (.port (.ctrl16 0x9300#16)) = some (.outLenl 0#8) :=
  ⟨{ State.reset with inputs := [.hostWrite 0x00#8 .bits32 0xFFFFFFFF#32] }, { State.reset with inputs := [.vint] },
    { State.reset with inputs := [.hint] }, { State.reset with placedWord := some (.ctrl16 0x9300#16) }, by decide⟩

theorem test_witness_PresentedPulsesRunVintThenHint :
    Inv { playing with inputs := [.vintWithHint] } ∧ ({ playing with inputs := [.vintWithHint] } : State).inputs = [.vintWithHint] :=
  ⟨{ test_playing_inv with }, rfl⟩

/-- Each stop is reached: no input, an ill-formed configuration, a placed word of no row, and a read past host memory. -/
theorem test_witness_StepStopsOnlyForItsReasons :
    step playing = .refused .noInput
      ∧ step { playing with cfg := { cfgA with targetRate := 0 }, inputs := [.vint] } = .refused .illFormedConfig
      ∧ step { playing with placedWord := some (.ctrl16 0x9780#16) } = .refused .unknownPortWord
      ∧ step { playing with hptr := 0xFFFFFE, inputs := [.hint] } = .fault .hostAddress := ⟨rfl, rfl, rfl, rfl⟩

theorem test_witness_EveryInputCompletes :
    Inv { playing with inputs := [.hostWrite 0x00#8 .bits32 0x09000000#32] }
      ∧ Inv { playing with inputs := [.hostStore 0xFFFFFF#24 0xFF#8] } :=
  ⟨{ test_playing_inv with }, { test_playing_inv with }⟩

/-- A step that answers a next state from a state with the invariants. -/
theorem test_witness_StepKeepsTheInvariants :
    Inv { playing with inputs := [.vint] } ∧ ∃ t, step { playing with inputs := [.vint] } = .next t :=
  ⟨{ test_playing_inv with }, _, rfl⟩

theorem test_witness_ReachableStatesSatisfyR51 : Reachable State.reset :=
  .start Config.reference [] [] test_cfgA_is_wellFormed ⟨List.Pairwise.nil, by simp⟩

/-- An error on record, and an input that adds another. -/
theorem test_witness_ErrorRecordLastsUntilReset :
    (∃ t, step { playing with errmask := 0x90, firsterr := 5, inputs := [.hostRead 0xA0#8 .bits32] } = .next t)
      ∧ playing.placedWord = none ∧ (0x90#8).getLsbD 7 = true ∧ (5#8) ≠ 0#8 := ⟨⟨_, rfl⟩, rfl, by decide, by decide⟩

theorem test_witness_ServicesRaiseNoError :
    playing.placedWord = none ∧ (∃ t, step { playing with inputs := [.vint] } = .next t)
      ∧ (∃ t, step { playing with inputs := [.hint] } = .next t)
      ∧ ∃ t, step { playing with inputs := [.vintWithHint] } = .next t := ⟨rfl, ⟨_, rfl⟩, ⟨_, rfl⟩, _, rfl⟩

theorem test_witness_RaisedErrorsHaveNoOtherEffect :
    ∃ t, exec .seed playing = .next t ∧ t.errmask ≠ playing.errmask ∧ t.firsterr ≠ playing.firsterr :=
  ⟨_, rfl, by decide, by decide⟩

/-- V4, V5 and V6: the longest transfer, the top word and the top segment. -/
theorem test_witness_EnqStoresTheFormattedTransfer :
    EncoderDomain 0xFE0000 0xFFFF ∧ EncoderDomain 0xFFFFFE 1 ∧ EncoderDomain 0xFF0000 0x8000 := by
  unfold EncoderDomain; decide

/-- V7 to V11a. -/
theorem test_witness_EnqOutsideTheDomainRaisesErrorTwo :
    ¬ EncoderDomain 0x01FFFE 2 ∧ ¬ EncoderDomain 0xFF0001 1 ∧ ¬ EncoderDomain 0xFF0000 0
      ∧ ¬ EncoderDomain 0xFF0000 0x10000 ∧ ¬ EncoderDomain 0x1000000 1 ∧ ¬ EncoderDomain 0xFFFFFE 2 := by
  unfold EncoderDomain; decide

theorem test_witness_TransferSurvivesItsFormattedWords :
    EncoderDomain (0xFE0000#32).toNat (0xFFFF#32).toNat ∧ EncoderDomain (0xFFFFFE#32).toNat (1#32).toNat := by
  unfold EncoderDomain; decide

theorem test_witness_FlushEmitsTheReadySlotsInOrder :
    queued.slot0.ready = true ∧ queued.slot1.ready = true ∧ queued.slot2.ready = false := by decide

theorem test_witness_FlushOfAnEmptyQueueDoesNothing :
    State.reset.slot0.ready = false ∧ State.reset.slot1.ready = false ∧ State.reset.slot2.ready = false := by decide

/-- V19, and two buffers that touch. -/
theorem test_witness_SeedInstallsBothBuffers :
    State.reset.gie = false ∧ BuffersFit 0xFF8000 0xFF8100 (cfgA.numStrips * cfgA.stripStride)
      ∧ BuffersFit 0xFFFFC0 0xFFFF80 (cfgA.numStrips * cfgA.stripStride) := by
  unfold BuffersFit BufferFits; decide

/-- V25, V21, V23, V24. -/
theorem test_witness_SeedRaisesLiveBeforeBuf :
    playing.gie = true ∧ State.reset.gie = false
      ∧ ¬ BuffersFit 0xFF8000 0xFF8020 (cfgA.numStrips * cfgA.stripStride)
      ∧ ¬ BuffersFit 0x01FFE0 0xFF8100 (cfgA.numStrips * cfgA.stripStride)
      ∧ ¬ BuffersFit 0xFFFFE0 0xFF8100 (cfgA.numStrips * cfgA.stripStride) := by
  unfold BuffersFit BufferFits; decide

theorem test_witness_VintServiceBeginsTheFrame : Inv playing ∧ playing.gie = true ∧ playing.vie = true :=
  ⟨test_playing_inv, rfl, rfl⟩

/-- Masked by either enable; and a full count. -/
theorem test_witness_MaskedPulsesAreOnlyCounted :
    ({ playing with gie := false } : State).gie = false ∧ ({ playing with vie := false } : State).vie = false
      ∧ ({ playing with hie := false, dbgHlost := 0xFFFF } : State).hie = false := by decide

/-- The first and the last counter value inside the window, the last strip, and the last address that fits. -/
theorem test_witness_HintWritesOneStripInTheWindow :
    let s : State := { playing with hline := 0xFFFF, hstrip := 3, hptr := 0xFFFFF0 }
    let u : State := { playing with hline := 23 }
    s.gie = true ∧ s.hie = true
      ∧ (s.cfg.windowOf s.cfg.std).first.toNat = (s.hline.toNat + s.cfg.stripHeight) % 65536
      ∧ s.hstrip.toNat < s.cfg.numStrips ∧ s.hptr.toNat + 15 ≤ 16777215
      ∧ (u.hline.toNat + u.cfg.stripHeight) % 65536 = (u.cfg.windowOf u.cfg.std).last.toNat := by decide

/-- One below the window (V36), one above it (V34), and every strip written (V37). -/
theorem test_witness_HintOutsideTheWindowOnlyCounts :
    let s : State := { playing with hline := 0xFFF8 }
    let u : State := { playing with hline := 24 }
    let v : State := { playing with hstrip := 4 }
    s.gie = true ∧ s.hie = true
      ∧ (s.hline.toNat + s.cfg.stripHeight) % 65536 < (s.cfg.windowOf s.cfg.std).first.toNat
      ∧ (u.cfg.windowOf u.cfg.std).last.toNat < (u.hline.toNat + u.cfg.stripHeight) % 65536
      ∧ v.cfg.numStrips ≤ v.hstrip.toNat := by decide

theorem test_witness_StripsAlternateBetweenThePairs :
    Inv playing ∧ playing.gie = true ∧ playing.hie = true ∧ playing.vie = true ∧ (∃ t, exec .vint playing = .next t)
      ∧ ∃ t, exec .hint playing = .next t ∧ t.hstrip ≠ playing.hstrip :=
  ⟨test_playing_inv, rfl, rfl, rfl, ⟨_, rfl⟩, _, rfl, by decide⟩

/-- CFG-A: the window has been passed after the third HINT. -/
theorem test_witness_EveryStripIsWrittenOncePerFrame :
    Inv playing ∧ playing.gie = true ∧ playing.vie = true ∧ playing.hie = true
      ∧ (∃ s0, exec .vint playing = .next s0) ∧ WindowPassed playing.cfg 3 ∧ ¬ WindowPassed playing.cfg 2 := by
  refine ⟨test_playing_inv, rfl, rfl, rfl, ⟨_, rfl⟩, fun j _ hj => ?_, fun h => ?_⟩
  · have hj : 0 + j * 8 ≤ 31 := of_decide_eq_true (Bool.and_eq_true_iff.mp hj).2
    omega
  · exact absurd (h 3 (by decide) (by decide)) (by decide)

/-- Another byte and a race in the Unpack buffer. -/
theorem test_witness_ServicesReadOnlyTheRenderBuffer :
    Inv playing ∧ (∃ t, exec .hint playing = .next t) ∧ (∃ t, exec .vint playing = .next t)
      ∧ (∀ a, inBuffer playing.cfg (renderBase playing) a = true →
        (mem0.store 0xFF8100 7).lookup a = playing.mem.lookup a ∧ (a ∈ [0xFF8100] ↔ a ∈ playing.races)) := by
  refine ⟨test_playing_inv, ⟨_, rfl⟩, ⟨_, rfl⟩, fun a ha => ?_⟩
  have h : a ≠ 0xFF8100 := by rintro rfl; exact absurd ha (by decide)
  exact ⟨Laws.lookup_store_other mem0 7 h, by simp [h, playing, State.reset]⟩

theorem test_witness_StartBeginsPlayback : State.reset.gie = false ∧ 15 < State.reset.cfg.maxTicks := by decide

/-- Every strategy; the delta strategy at, above and below the last tick; the last supported tick. -/
theorem test_witness_PaceAnswersByItsStrategy :
    playing.started = true ∧ ({ playing with arg0 := 15 } : State).arg0.toNat < playing.cfg.maxTicks
      ∧ ({ playing with arg0 := 15, pt := 15 } : State).arg0.toNat = ({ playing with arg0 := 15, pt := 15 } : State).pt.toNat
      ∧ ({ playing with arg0 := 15, pt := 14 } : State).pt.toNat < ({ playing with arg0 := 15, pt := 14 } : State).arg0.toNat
      ∧ ({ playing with arg0 := 0, pt := 1 } : State).arg0.toNat < ({ playing with arg0 := 0, pt := 1 } : State).pt.toNat := by
  decide

theorem test_witness_AllStrategiesAgreeWithExactDivision :
    Inv { playing with arg0 := 15 } ∧ playing.started = true ∧ (15#32).toNat < playing.cfg.maxTicks :=
  ⟨{ test_playing_inv with }, by decide, by decide⟩

theorem test_witness_PaceIsMonotone :
    Inv { playing with arg0 := 3 } ∧ Inv { playing with arg0 := 15 } ∧ (3#32).toNat ≤ (15#32).toNat
      ∧ (∃ t, exec .pace { playing with arg0 := 3 } = .next t) ∧ ∃ t, exec .pace { playing with arg0 := 15 } = .next t :=
  ⟨{ test_playing_inv with }, { test_playing_inv with }, by decide, ⟨_, rfl⟩, _, rfl⟩

theorem test_witness_LastSupportedTickAnswersTheLastFrame :
    Inv { playing with arg0 := 15 } ∧ (15#32).toNat = playing.cfg.maxTicks - 1 :=
  ⟨{ test_playing_inv with }, by decide⟩

/-- V53, V52, and the first tick that is not supported. -/
theorem test_witness_StartAndPaceRaiseTheirErrors :
    playing.gie = true ∧ State.reset.started = false ∧ playing.started = true
      ∧ playing.cfg.maxTicks ≤ ({ playing with arg0 := 16 } : State).arg0.toNat := by decide

theorem test_witness_AdvCommitsTheNextIndex : playing.started = true ∧ playing.done = false := by decide

theorem test_witness_CommittedFramesAlternateParity :
    Inv { playing with arg0 := 3 } ∧ (∃ t, exec .adv { playing with arg0 := 3 } = .next t ∧ t.done = false)
      ∧ ({ cfgA with dropPolicy := .step } : Config).wf = true ∧ State.reset.gie = false :=
  ⟨{ test_playing_inv with }, ⟨_, rfl, rfl⟩, by decide, rfl⟩

/-- V67, V63 and V60. -/
theorem test_witness_AdvStopsAtTheEndOfTheVideo :
    State.reset.started = false ∧ ({ playing with done := true } : State).done = true
      ∧ ∃ t, exec .adv { playing with lidx := 1, arg0 := 4 } = .next t ∧ t.done = true :=
  ⟨rfl, rfl, _, rfl, rfl⟩

theorem test_witness_PendingSwapIsMadeOnceByVint : Inv playing ∧ playing.gie = true ∧ playing.vie = true :=
  ⟨test_playing_inv, rfl, rfl⟩

/-- V28, V29 and V29b. -/
theorem test_witness_IntctlWritesTheEnables :
    (false = false ∨ (true = false ∧ true = false) ∨ State.reset.seeded = true)
      ∧ (true = false ∨ (false = false ∧ false = false) ∨ State.reset.seeded = true)
      ∧ (true = false ∨ (true = false ∧ true = false) ∨ playing.seeded = true) := by decide

/-- V27. -/
theorem test_witness_IntctlRefusesAnUnseededService : (true = true ∨ false = true) ∧ State.reset.seeded = false := by
  decide

theorem test_witness_OnlySeedAndServicesMoveThePointer :
    (∃ t, exec .swapreq playing = .next t) ∧ (∃ t, exec .seed playing = .next t) ∧ playing.gie = true
      ∧ ∃ t, exec .hint playing = .next t := ⟨⟨_, rfl⟩, ⟨_, rfl⟩, rfl, _, rfl⟩

/-- A store into the Unpack buffer while no swap is pending. -/
theorem test_witness_DisciplinedHostNeverRaces :
    let s : State := { playing with inputs := [.hostStore 0xFF8100 7] }
    Inv s ∧ s.races = [] ∧ s.buffersOutsideWindow ∧ s.nextObeysSwapDiscipline ∧ ∃ t, step s = .next t := by
  refine ⟨{ test_playing_inv with }, rfl, fun _ a ha => ?_, fun a v r h => ?_, _, rfl⟩
  · have ha : a < 0xA15000 + 256 := of_decide_eq_true (Bool.and_eq_true_iff.mp ha).2
    have h1 : ¬ 0xFF8000 ≤ a := by omega
    have h2 : ¬ 0xFF8100 ≤ a := by omega
    exact ⟨Bool.and_eq_false_iff.mpr (.inl (decide_eq_false h1)), Bool.and_eq_false_iff.mpr (.inl (decide_eq_false h2))⟩
  · cases h; decide

/-- An instruction of each class that answers a next state. -/
theorem test_witness_EachRegisterHasItsWriters :
    (∃ t, exec .pace playing = .next t) ∧ (∃ t, exec .flush queued = .next t) ∧ ∃ t, exec .vint playing = .next t :=
  ⟨⟨_, rfl⟩, ⟨_, rfl⟩, _, rfl⟩

/-- A tick that wraps, a START that clears it, and a START that is refused. -/
theorem test_witness_TickCountsVintPulses :
    (∃ t, exec .vint { playing with tick := 0xFFFFFFFF } = .next t)
      ∧ (∃ t, exec (.start .table) State.reset = .next t) ∧ State.reset.gie = false
      ∧ (∃ t, exec (.start .table) playing = .next t) ∧ playing.gie = true :=
  ⟨⟨_, rfl⟩, ⟨_, rfl⟩, rfl, ⟨_, rfl⟩, rfl⟩

theorem test_witness_SeededAndStartedLastUntilReset :
    playing.placedWord = none ∧ ∃ t, step { playing with inputs := [.vint] } = .next t := ⟨rfl, _, rfl⟩

/-- The first and the last register of the map; a narrow read, a misaligned one, and the first and last reserved
offsets. -/
theorem test_witness_RegisterReadsReturnTheMap :
    playing.placedWord = none ∧ ((0x00#8).toNat, 0) ∈ registerMap playing ∧ ((0x98#8).toNat, 0) ∈ registerMap playing
      ∧ ({ playing with inputs := [.hostRead 0x98#8 .bits32] } : State).inputs = [.hostRead 0x98#8 .bits32]
      ∧ BadAccess 0x04#8 .bits16 ∧ BadAccess 0x05#8 .bits32 ∧ Reserved 0x5C#8 ∧ Reserved 0x7C#8 ∧ Reserved 0x9C#8
      ∧ Reserved 0xA0#8 ∧ Reserved 0xFC#8 := by
  unfold BadAccess Reserved; decide

/-- CMD, an argument register, a narrow write, a misaligned one, and the first and last offsets that take no write. -/
theorem test_witness_RegisterWritesReachCmdAndArguments :
    ({ playing with inputs := [.hostWrite 0x0C#8 .bits32 5#32] } : State).inputs = [.hostWrite 0x0C#8 .bits32 5#32]
      ∧ ({ playing with inputs := [.hostWrite 0x00#8 .bits32 5#32] } : State).inputs = [.hostWrite 0x00#8 .bits32 5#32]
      ∧ playing.placedWord = none ∧ BadAccess 0x04#8 .bits8 ∧ BadAccess 0x06#8 .bits32 ∧ 0x10 ≤ (0x10#8).toNat ∧ 0x10 ≤ (0xFC#8).toNat := by
  unfold BadAccess; decide

theorem test_witness_ResetRestoresEveryElement :
    ({ playing with inputs := [.reset] } : State).cfg.wf = true
      ∧ ({ playing with inputs := [.reset] } : State).placedWord = none
      ∧ ({ playing with inputs := [.reset] } : State).inputs = [.reset] := by decide

/-- The bytes next to the register window. -/
theorem test_witness_HostStoreChangesOneByte :
    inRegisterWindow playing.cfg (0xA14FFF#24).toNat = false ∧ inRegisterWindow playing.cfg (0xA15100#24).toNat = false
      ∧ ({ playing with inputs := [.hostStore 0xA15100#24 1#8] } : State).placedWord = none
      ∧ ({ playing with inputs := [.hostStore 0xA15100#24 1#8] } : State).inputs = [.hostStore 0xA15100#24 1#8] := by decide

/-- A step that appends (a FLUSH, a HINT), one that appends nothing, and a reset. -/
theorem test_witness_TraceGrowsOnlyByFlushAndServices :
    queued.placedWord = none ∧ playing.placedWord = none
      ∧ (∃ t, step { queued with inputs := [.hostWrite 0x00#8 .bits32 0x04000000#32] } = .next t)
      ∧ (∃ t, step { playing with inputs := [.hint] } = .next t)
      ∧ (∃ t, step { playing with inputs := [.hostWrite 0x00#8 .bits32 0x05000000#32] } = .next t)
      ∧ ∃ t, step { playing with inputs := [.reset] } = .next t :=
  ⟨rfl, rfl, ⟨_, rfl⟩, ⟨_, rfl⟩, ⟨_, rfl⟩, _, rfl⟩

end Sys2Proof.Tests
end

section
/-! SUPPORT. The error record in bits (R207), the register map by offset and value (R46 to R49), and what good and bad
host accesses do (R49, R50). The last part settles the statements about host register accesses. -/

namespace Sys2Proof.Proofs

open Sys2Proof.Machine Sys2Proof.Spec Sys2Proof.Laws

/-! ## The error record -/

theorem errorNumber_bounds (e : ErrorCode) : 1 ≤ errorNumber e ∧ errorNumber e ≤ 8 := by
  cases e <;> decide

/-- `raiseError` is what R207 calls raising the code's number. -/
theorem raiseError_recordsError (e : ErrorCode) (s : State) : RecordsError (errorNumber e) s (raiseError e s) := by
  obtain ⟨hpos, hle⟩ := errorNumber_bounds e
  refine ⟨fun b hb => ?_, ?_, rfl⟩
  · have hbit : (1#8 <<< (errorNumber e - 1)).getLsbD b = decide (b + 1 = errorNumber e) := by
      simp only [BitVec.getLsbD_shiftLeft, BitVec.getLsbD_one]
      grind
    rw [raiseError_errmask, BitVec.getLsbD_or, hbit]
  · rw [raiseError_firsterr]
    split
    · rw [BitVec.toNat_ofNat, Nat.mod_eq_of_lt (by omega)]
    · rfl

/-! ## Packed words -/

/-- The low `k` bits of a word hold the number `a`, and the bits above them are 0. -/
def PacksTo (x : Word) (k a : Nat) : Prop :=
  x.toNat = a ∧ a < 2 ^ k

@[simp] theorem flagWord_toNat (b : Bool) : (flagWord b).toNat = b.toNat := by
  cases b <;> rfl

theorem flagWord_packsTo (b : Bool) : PacksTo (flagWord b) 1 b.toNat :=
  ⟨flagWord_toNat b, b.toNat_lt⟩

theorem setWidth_packsTo {n : Nat} (v : BitVec n) (h : n ≤ 32) : PacksTo (v.setWidth 32) n v.toNat :=
  ⟨BitVec.toNat_setWidth_of_le h, v.isLt⟩

/-- Bits that read 0. -/
theorem PacksTo.gap {x : Word} {k a : Nat} (h : PacksTo x k a) (n : Nat) : PacksTo x (k + n) a :=
  ⟨h.1, h.2.trans_le (Nat.pow_le_pow_right (by decide) (Nat.le_add_right k n))⟩

/-- A field of `n` bits above the low `k` bits adds `2 ^ k` times its number. -/
theorem PacksTo.field {x v : Word} {k n a b : Nat} (hx : PacksTo x k a) (hv : PacksTo v n b) (hk : k + n ≤ 32) :
    PacksTo (x ||| v <<< k) (k + n) (a + 2 ^ k * b) := by
  obtain ⟨rfl, ha⟩ := hx
  obtain ⟨rfl, hb⟩ := hv
  have hsum : x.toNat + 2 ^ k * v.toNat < 2 ^ (k + n) :=
    calc x.toNat + 2 ^ k * v.toNat < 2 ^ k * 1 + 2 ^ k * v.toNat := by omega
      _ = 2 ^ k * (v.toNat + 1) := by ring
      _ ≤ 2 ^ k * 2 ^ n := Nat.mul_le_mul_left _ hb
      _ = 2 ^ (k + n) := (Nat.pow_add 2 k n).symm
  have hfit : 2 ^ k * v.toNat < 2 ^ 32 := by
    have := Nat.pow_le_pow_right (n := 2) (by decide) hk
    omega
  refine ⟨?_, hsum⟩
  rw [BitVec.toNat_or, BitVec.toNat_shiftLeft, Nat.shiftLeft_eq, Nat.mul_comm, Nat.mod_eq_of_lt hfit, Nat.or_comm,
    ← Nat.two_pow_add_eq_or_of_lt ha, Nat.add_comm]

/-- A flag above the low `k` bits. -/
theorem PacksTo.flag {x : Word} {k a : Nat} (h : PacksTo x k a) (b : Bool) (hk : k + 1 ≤ 32 := by decide) :
    PacksTo (x ||| flagWord b <<< k) (k + 1) (a + 2 ^ k * b.toNat) :=
  h.field (flagWord_packsTo b) hk

/-! ## The values of the register map -/

/-- STATUS is the sum of its bits (R46), packed from bit 0 up. -/
theorem statusWord_toNat (s : State) : (statusWord s).toNat = statusValue s := by
  have flags := (flagWord_packsTo s.gie).flag s.vie |>.flag s.hie |>.flag s.seeded |>.flag s.started
    |>.flag s.swapPending |>.flag s.rsel |>.flag s.parity |>.flag s.done
  have upper := (flags.gap 2).field (setWidth_packsTo (hstateCode s.hstate) (by decide)) (by decide) |>.flag s.toggle
    |>.field (setWidth_packsTo (strategyCode s.strat) (by decide)) (by decide) |>.flag (faultFlag s)
  have hstate : (hstateCode s.hstate).toNat = (match s.hstate with | .idle => 0 | .armed => 1 | .swapping => 2) := by
    cases s.hstate <;> rfl
  have hstrat : (strategyCode s.strat).toNat
      = (match s.strat with | .exact => 0 | .reciprocal => 1 | .delta => 2 | .table => 3) := by
    cases s.strat <;> rfl
  have hfault : (faultFlag s).toNat = if s.errmask = 0#8 then 0 else 1 := by
    by_cases h : s.errmask = 0#8 <;> simp [faultFlag, h]
  rw [hstate, hstrat, hfault] at upper
  exact upper.1

/-- ERROR is FIRSTERR above ERRMASK (R47). -/
theorem errorWord_toNat (s : State) : (errorWord s).toNat = s.firsterr.toNat * 256 + s.errmask.toNat := by
  have h := (setWidth_packsTo s.errmask (by decide)).field (setWidth_packsTo s.firsterr (by decide)) (by decide)
  rw [errorWord, BitVec.or_comm, h.1]
  ring

/-- The lost-pulse register is DBG_VLOST above DBG_HLOST (R48). -/
theorem lostPulses_toNat (s : State) :
    (s.dbgVlost ++ s.dbgHlost).toNat = s.dbgVlost.toNat * 65536 + s.dbgHlost.toNat := by
  rw [BitVec.toNat_append, ← Nat.shiftLeft_add_eq_or_of_lt s.dbgHlost.isLt, Nat.shiftLeft_eq]

theorem slotMap_eq (first : Nat) (v : DmaSlot) :
    slotMap first v = (slotRegisters first v).map fun r => (r.1, r.2.toNat) := by
  simp [slotMap, slotRegisters, BitVec.toNat_setWidth_of_le, -BitVec.toNat_setWidth]

/-- The map of the statements is the register map of the machine, read as numbers. -/
theorem registerMap_eq (s : State) : registerMap s = (registers s).map fun r => (r.1, r.2.toNat) := by
  simp [registerMap, registers, slotMap_eq, statusWord_toNat, errorWord_toNat, lostPulses_toNat,
    BitVec.toNat_setWidth_of_le, -BitVec.toNat_setWidth]

/-- A value of the map is the word of the machine's register at that offset. -/
theorem mem_registers_of_mem_registerMap {s : State} {a value : Nat} (h : (a, value) ∈ registerMap s) :
    (a, BitVec.ofNat 32 value) ∈ registers s := by
  rw [registerMap_eq] at h
  obtain ⟨⟨b, w⟩, hmem, heq⟩ := List.mem_map.mp h
  obtain ⟨rfl, rfl⟩ := Prod.mk.inj heq
  rwa [BitVec.ofNat_toNat, BitVec.setWidth_eq]

/-! ## The offsets of the register map -/

/-- The offsets of R48 that are not reserved. -/
def registerOffsets : List Nat :=
  [0x00, 0x04, 0x08, 0x0C, 0x10, 0x14, 0x18, 0x1C, 0x20, 0x24, 0x28, 0x2C, 0x30, 0x34, 0x38, 0x3C,
   0x40, 0x44, 0x48, 0x4C, 0x50, 0x54, 0x58, 0x60, 0x64, 0x68, 0x6C, 0x70, 0x74, 0x78,
   0x80, 0x84, 0x88, 0x8C, 0x90, 0x94, 0x98]

theorem registers_offsets (s : State) : (registers s).map Prod.fst = registerOffsets := rfl

theorem registerOffsets_nodup : registerOffsets.Nodup := by decide

theorem registerOffsets_aligned : ∀ a ∈ registerOffsets, a % 4 = 0 := by decide

theorem registerOffsets_below : ∀ a ∈ registerOffsets, a < 0xA0 := by decide

theorem not_mem_registerOffsets_of_reserved {offset : Byte} (h : Reserved offset) :
    offset.toNat ∉ registerOffsets := by
  obtain rfl | rfl | rfl | habove := h
  · decide
  · decide
  · decide
  · exact fun hmem => absurd (registerOffsets_below _ hmem) (by omega)

/-- In a list without a repeated key, every entry is the one its key finds. -/
theorem lookup_of_mem {β : Type} {l : List (Nat × β)} {k : Nat} {v : β} (hl : (l.map Prod.fst).Nodup)
    (h : (k, v) ∈ l) : l.lookup k = some v := by
  induction l with
  | nil => cases h
  | cons r l ih =>
    obtain ⟨hr, hl⟩ := List.nodup_cons.mp hl
    rcases List.mem_cons.mp h with rfl | h
    · exact List.lookup_cons_self
    · have hne : (k == r.1) = false := beq_false_of_ne fun he => hr (he ▸ List.mem_map_of_mem h)
      rw [List.lookup_cons, hne]
      exact ih hl h

theorem readRegister_of_mem {s : State} {a : Nat} {w : Word} (h : (a, w) ∈ registers s) :
    readRegister a s = some w :=
  lookup_of_mem (registers_offsets s ▸ registerOffsets_nodup) h

theorem readRegister_of_not_mem {a : Nat} (s : State) (h : a ∉ registerOffsets) : readRegister a s = none := by
  refine List.lookup_eq_none_iff.mpr fun r hr => bne_iff_ne.mpr fun he => h ?_
  rw [← registers_offsets s, he]
  exact List.mem_map_of_mem hr

/-! ## Host register accesses -/

theorem goodAccess_iff (offset : Byte) (width : AccessWidth) :
    goodAccess offset width = true ↔ width = .bits32 ∧ offset.toNat % 4 = 0 := by
  simp only [goodAccess, Bool.and_eq_true, decide_eq_true_eq]

theorem goodAccess_of_bad {offset : Byte} {width : AccessWidth} (h : BadAccess offset width) :
    goodAccess offset width = false := by
  refine Bool.eq_false_iff.mpr fun hgood => ?_
  obtain ⟨hwidth, halign⟩ := (goodAccess_iff offset width).mp hgood
  exact h.elim (· hwidth) (· halign)

/-- R49: a 32-bit read at an offset of the map answers the register's word. -/
theorem hostRead_of_mem {s : State} {offset : Byte} {w : Word} (h : (offset.toNat, w) ∈ registers s) :
    hostRead offset .bits32 s = { s with hostReads := s.hostReads ++ [w] } := by
  have hoffset : offset.toNat ∈ registerOffsets := registers_offsets s ▸ List.mem_map_of_mem h
  have hgood := (goodAccess_iff offset .bits32).mpr ⟨rfl, registerOffsets_aligned _ hoffset⟩
  rw [hostRead, if_pos hgood, readRegister_of_mem h]

/-- R49: a bad access and a reserved offset answer 0 and raise Err(7). -/
theorem hostRead_of_bad {offset : Byte} {width : AccessWidth} (s : State)
    (h : BadAccess offset width ∨ Reserved offset) :
    hostRead offset width s = raiseError .badacc { s with hostReads := s.hostReads ++ [0#32] } := by
  have hnone : (if goodAccess offset width then readRegister offset.toNat s else none) = none := by
    rcases h with hbad | hreserved
    · rw [goodAccess_of_bad hbad, if_neg Bool.false_ne_true]
    · rw [readRegister_of_not_mem s (not_mem_registerOffsets_of_reserved hreserved), ite_self]
  rw [hostRead, hnone]
  rfl

theorem hostWrite_arg0 (value : Word) (s : State) :
    hostWrite 0x04#8 .bits32 value s = .next { s with arg0 := value } := rfl

theorem hostWrite_arg1 (value : Word) (s : State) :
    hostWrite 0x08#8 .bits32 value s = .next { s with arg1 := value } := rfl

theorem hostWrite_arg2 (value : Word) (s : State) :
    hostWrite 0x0C#8 .bits32 value s = .next { s with arg2 := value } := rfl

/-- R50: a bad access and an offset past the argument registers raise Err(7). -/
theorem hostWrite_of_bad {offset : Byte} {width : AccessWidth} (value : Word) (s : State)
    (h : BadAccess offset width ∨ 0x10 ≤ offset.toNat) :
    hostWrite offset width value s = .next (raiseError .badacc s) := by
  rw [hostWrite]
  rcases h with hbad | habove
  · rw [goodAccess_of_bad hbad, if_neg Bool.false_ne_true]
  · have hne {a : Byte} (ha : a.toNat < 0x10) : offset ≠ a := by
      rintro rfl
      omega
    rw [if_neg (hne (by decide)), if_neg (hne (by decide)), if_neg (hne (by decide)), if_neg (hne (by decide)),
      ite_self]

/-! ## The statements -/

/-- Settles O50: the map of R48 holds the machine's registers, so a good read finds its value; a bad one finds none. -/
theorem registerReadsReturnTheMap : Obligations.RegisterReadsReturnTheMap := by
  intro s rest offset width hwf hplaced hinputs
  have htake := step_takes hplaced hwf hinputs
  refine ⟨?_, fun hbad => ?_⟩
  · rintro value rfl hmem
    have hmem : (offset.toNat, BitVec.ofNat 32 value) ∈ registers { s with inputs := rest } :=
      mem_registers_of_mem_registerMap hmem
    rw [htake, takeInput, hostRead_of_mem hmem]
  · rw [takeInput, hostRead_of_bad _ hbad] at htake
    exact ⟨_, htake, raiseError_recordsError .badacc _⟩

/-- Settles O51, one case of HostWrite for each offset that takes a write. -/
theorem registerWritesReachCmdAndArguments : Obligations.RegisterWritesReachCmdAndArguments := by
  intro s rest offset width value hwf hplaced hinputs
  have htake := step_takes hplaced hwf hinputs
  rw [takeInput] at htake
  refine ⟨?_, fun hbad => ?_⟩
  · rintro rfl
    refine ⟨?_, ?_, ?_, ?_⟩
    · rintro rfl
      rw [htake, hostWrite_command]
    · rintro rfl
      rw [htake, hostWrite_arg0]
    · rintro rfl
      rw [htake, hostWrite_arg1]
    · rintro rfl
      rw [htake, hostWrite_arg2]
  · rw [hostWrite_of_bad value _ hbad] at htake
    exact ⟨_, htake, raiseError_recordsError .badacc _⟩

end Sys2Proof.Proofs
end

section
/-! SUPPORT. The encoder domain by division (R101), the bytes and the events one slot adds to a flush (R102, R107). The
last part settles the statements about ENQ outside the domain and about a flush of ready slots. -/

namespace Sys2Proof.Proofs

open Sys2Proof.Machine Sys2Proof.Spec Sys2Proof.Laws

/-! ## The encoder domain -/

/-- The check of ENQ is the domain of R101: the last byte of a transfer fits in 24 bits exactly when the byte after it is
at most 2^24, and a shift by 17 numbers the 128 KiB segments. -/
theorem inEncoderDomain_iff (addr len : Word) :
    inEncoderDomain addr len = true ↔ EncoderDomain addr.toNat len.toNat := by
  simp only [inEncoderDomain, EncoderDomain, Bool.and_eq_true, decide_eq_true_eq, Nat.shiftRight_eq_div_pow]
  omega

theorem exec_enq_outside {s : State} (k : Slot) (h : ¬ EncoderDomain s.arg0.toNat s.arg2.toNat) :
    exec (.enq k) s = .next (raiseError .arg s) := by
  rw [exec, execEnq, if_neg (mt (inEncoderDomain_iff _ _).mp h)]

/-! ## What one slot adds to a flush -/

/-- The low byte of a control-port word, as a number. -/
theorem lowByte_packsTo (w : Half) : PacksTo ((w &&& 0xFF#16).setWidth 32) 8 (w.toNat % 256) := by
  have hbyte : (w &&& 0xFF#16).toNat = w.toNat % 256 := by
    rw [BitVec.toNat_and]
    exact Nat.and_two_pow_sub_one_eq_mod w.toNat 8
  exact ⟨(BitVec.toNat_setWidth_of_le (by decide)).trans hbyte, Nat.mod_lt _ (by decide)⟩

/-- Len(op) is the low byte of LENH above the low byte of LENL (R93). -/
theorem opLength_eq (op : DmaOp) : opLength op = op.lenH.toNat % 256 * 256 + op.lenL.toNat % 256 := by
  have h := (lowByte_packsTo op.lenL).field (lowByte_packsTo op.lenH) (by decide)
  rw [opLength, BitVec.or_comm, h.1]
  ring

theorem readyBytes_eq_slotBytes (v : DmaSlot) : readyBytes v = slotBytes v := by
  rw [readyBytes, slotBytes, opLength_eq]

theorem flushed_eq_slotEvents (v : DmaSlot) : flushed v = slotEvents v := rfl

/-- DBG_BUDGET counts a flush of more bytes than the budget, saturating at 2^32 - 1 (R42, R107). -/
theorem budgetAfter_eq (s : State) :
    budgetAfter s =
      if s.cfg.flushBudget.toNat < slotBytes s.slot0 + slotBytes s.slot1 + slotBytes s.slot2 then
        BitVec.ofNat 32 (min (s.dbgBudget.toNat + 1) 4294967295)
      else s.dbgBudget := by
  simp only [budgetAfter, readyBytes_eq_slotBytes, saturatingSucc]
  rfl

/-! ## The statements -/

/-- Settles O19: a triple outside the domain of R101 fails the check of ENQ, which then only raises Err(2). -/
theorem enqOutsideTheDomainRaisesErrorTwo : Obligations.EnqOutsideTheDomainRaisesErrorTwo :=
  fun k s hout => ⟨raiseError .arg s, exec_enq_outside k hout, raiseError_recordsError .arg s⟩

/-- Settles O21: a ready slot opens the walk, whose events and byte count are those of R102 and R107. -/
theorem flushEmitsTheReadySlotsInOrder : Obligations.FlushEmitsTheReadySlotsInOrder := by
  intro s hready
  have hopen : (s.slot0.ready || s.slot1.ready || s.slot2.ready) = true := by
    simpa only [Bool.or_eq_true, or_assoc] using hready
  rw [execFlush_eq, if_pos hopen, budgetAfter_eq]
  simp only [flushed_eq_slotEvents]

end Sys2Proof.Proofs
end

section
/-! SUPPORT. The three branches of Delta (R155), the answer of each strategy (R152 to R155), and PACE of a supported
tick (R157). The last part settles the statement about the answers of PACE. -/

namespace Sys2Proof.Proofs

open Sys2Proof.Machine Sys2Proof.Spec Sys2Proof.Laws

/-! ## The branches of Delta -/

theorem deltaUpdate_same {t : Word} {s : State} (h : t.toNat = s.pt.toNat) : deltaUpdate t s = s :=
  if_pos (BitVec.eq_of_toNat_eq h)

theorem deltaUpdate_ahead {t : Word} {s : State} (h : s.pt.toNat < t.toNat) :
    deltaUpdate t s = { s with
      pidx := BitVec.ofNat 16
        (s.pidx.toNat + (s.pa.toNat + (t.toNat - s.pt.toNat) * s.cfg.targetRate) / s.cfg.refresh)
      pa := BitVec.ofNat 8 ((s.pa.toNat + (t.toNat - s.pt.toNat) * s.cfg.targetRate) % s.cfg.refresh)
      pt := t } := by
  have hne : t ≠ s.pt := by rintro rfl; exact lt_irrefl _ h
  rw [deltaUpdate, if_neg hne, if_pos (BitVec.lt_def.mpr h)]

theorem deltaUpdate_behind {t : Word} {s : State} (h : t.toNat < s.pt.toNat) :
    deltaUpdate t s = { s with
      pidx := BitVec.ofNat 16 (exactIndex s.cfg t.toNat)
      pa := BitVec.ofNat 8 (t.toNat * s.cfg.targetRate % s.cfg.refresh)
      pt := t } := by
  have hne : t ≠ s.pt := by rintro rfl; exact lt_irrefl _ h
  have hnlt : ¬ s.pt < t := fun hlt => Nat.lt_asymm h (BitVec.lt_def.mp hlt)
  rw [deltaUpdate, if_neg hne, if_neg hnlt]

/-! ## The answer of each strategy -/

theorem paceByStrategy_exact (t : Word) {s : State} (h : s.strat = .exact) :
    paceByStrategy t s = (BitVec.ofNat 32 (t.toNat * s.cfg.targetRate / s.cfg.refresh), s) := by
  rw [paceByStrategy, h]
  rfl

/-- The shift of R153 is a division. -/
theorem paceByStrategy_reciprocal (t : Word) {s : State} (h : s.strat = .reciprocal) :
    paceByStrategy t s = (BitVec.ofNat 32 (t.toNat * s.cfg.recipMul / 2 ^ s.cfg.recipShift), s) := by
  rw [paceByStrategy, h, ← Nat.shiftRight_eq_div_pow]
  rfl

theorem paceByStrategy_table (t : Word) {s : State} (h : s.strat = .table) :
    paceByStrategy t s = (BitVec.ofNat 32 (lutEntry s t.toNat).toNat, s) := by
  rw [paceByStrategy, h, BitVec.ofNat_toNat]

theorem paceByStrategy_delta (t : Word) {s : State} (h : s.strat = .delta) :
    paceByStrategy t s = (BitVec.ofNat 32 (deltaUpdate t s).pidx.toNat, deltaUpdate t s) := by
  rw [paceByStrategy, h, BitVec.ofNat_toNat]

/-! ## PACE of a supported tick -/

/-- Past both checks of R157, PACE puts the strategy's answer in RES. -/
theorem exec_pace_supported {s s' : State} {r : Word} (hstarted : s.started = true)
    (hrange : s.arg0.toNat < s.cfg.maxTicks) (h : paceByStrategy s.arg0 s = (r, s')) :
    exec .pace s = .next { s' with res := r } := by
  rw [exec, execPace, hstarted, if_neg (by decide), if_neg (Nat.not_le.mpr hrange), h]

/-! ## The statement -/

/-- Settles O33: past the checks of PACE, one clause for each strategy, and for Delta one for each branch of R155. -/
theorem paceAnswersByItsStrategy : Obligations.PaceAnswersByItsStrategy := by
  intro s hstarted hrange t acc ahead recomputed
  refine ⟨fun hstrat => ?_, fun hstrat => ?_, fun hstrat => ?_, fun hstrat hsame => ?_, fun hstrat habove => ?_,
    fun hstrat hbelow => ?_⟩
  · exact exec_pace_supported hstarted hrange (paceByStrategy_exact _ hstrat)
  · exact exec_pace_supported hstarted hrange (paceByStrategy_reciprocal _ hstrat)
  · exact exec_pace_supported hstarted hrange (paceByStrategy_table _ hstrat)
  · rw [exec_pace_supported hstarted hrange (paceByStrategy_delta _ hstrat), deltaUpdate_same hsame]
  · rw [exec_pace_supported hstarted hrange (paceByStrategy_delta _ hstrat), deltaUpdate_ahead habove]
  · rw [exec_pace_supported hstarted hrange (paceByStrategy_delta _ hstrat), deltaUpdate_behind hbelow, exactIndex]

end Sys2Proof.Proofs
end

section
/-! SUPPORT. The twenty command words of R83, port words as a high byte above a field byte (R84, R93), and the default
color-memory command (R88). The last part settles the statements about encodings and about the output rows. -/

namespace Sys2Proof.Proofs

open Sys2Proof.Machine Sys2Proof.Spec Sys2Proof.Laws

/-! ## Command words -/

/-- The words of the opcode map, written out. -/
def commandWords : List Word :=
  [0x01000000#32, 0x01000001#32, 0x01000002#32, 0x01000003#32, 0x01000004#32, 0x01000005#32, 0x01000006#32,
   0x01000007#32, 0x02000000#32, 0x03000000#32, 0x03000001#32, 0x03000002#32, 0x04000000#32, 0x05000000#32,
   0x06000000#32, 0x06000001#32, 0x06000002#32, 0x06000003#32, 0x07000000#32, 0x08000000#32]

theorem mem_commandWords_iff (w : Word) : w ∈ commandWords ↔ InOpcodeMap w.toNat := by
  simp only [commandWords, InOpcodeMap, List.mem_cons, List.not_mem_nil, or_false, ← BitVec.toNat_inj,
    BitVec.toNat_ofNat]
  omega

/-- A word whose bits between the opcode and the low `n` bits are 0 (R82). -/
theorem toNat_of_fields {w : Word} {n : Nat} {op : Byte} (hn : n ≤ 24) (hop : w.extractLsb' 24 8 = op)
    (hzero : w.extractLsb' n (24 - n) = 0#(24 - n)) :
    w.toNat = op.toNat * 2 ^ 24 + (w.extractLsb' 0 n).toNat := by
  have hlow : w.toNat / 2 ^ n % 2 ^ (24 - n) = 0 := by
    simpa [BitVec.extractLsb'_toNat, Nat.shiftRight_eq_div_pow] using congrArg BitVec.toNat hzero
  have hsplit := Nat.mod_mul (x := w.toNat) (a := 2 ^ n) (b := 2 ^ (24 - n))
  rw [← Nat.pow_add, Nat.add_sub_cancel' hn, hlow] at hsplit
  have hlt := w.isLt
  rw [← hop, BitVec.extractLsb'_toNat, BitVec.extractLsb'_toNat, Nat.shiftRight_eq_div_pow, Nat.shiftRight_zero]
  omega

theorem inOpcodeMap_intctl (x : BitVec 3) : InOpcodeMap ((0x01#8 : Byte).toNat * 2 ^ 24 + x.toNat) := by
  have := x.isLt
  simp only [InOpcodeMap, BitVec.toNat_ofNat]
  omega

theorem inOpcodeMap_enq {x : BitVec 2} {s : Slot} (h : slotOfCode x = some s) :
    InOpcodeMap ((0x03#8 : Byte).toNat * 2 ^ 24 + x.toNat) := by
  have hthree : x.toNat ≠ 3 := by
    revert x s
    decide
  have := x.isLt
  simp only [InOpcodeMap, BitVec.toNat_ofNat]
  omega

theorem inOpcodeMap_start (x : BitVec 2) : InOpcodeMap ((0x06#8 : Byte).toNat * 2 ^ 24 + x.toNat) := by
  have := x.isLt
  simp only [InOpcodeMap, BitVec.toNat_ofNat]
  omega

theorem plainCommand_of_not_mem {w : Word} {op : Byte} (i : Instr) (h : w ∉ commandWords)
    (hop : w.extractLsb' 24 8 = op) (hmap : InOpcodeMap (op.toNat * 2 ^ 24)) : plainCommand w i = .illegal w := by
  refine if_neg fun hzero => h ((mem_commandWords_iff w).mpr ?_)
  rw [toNat_of_fields (n := 0) (by decide) hop hzero]
  simpa using hmap

/-- R90: every word outside the opcode map is illegal, by the field check of its opcode's row or for want of a row. -/
theorem decodeCommand_of_not_mem {w : Word} (h : w ∉ commandWords) : decodeCommand w = .illegal w := by
  have outside {n : Nat} {op : Byte} (hn : n ≤ 24) (hop : w.extractLsb' 24 8 = op)
      (hzero : w.extractLsb' n (24 - n) = 0#(24 - n)) :
      ¬ InOpcodeMap (op.toNat * 2 ^ 24 + (w.extractLsb' 0 n).toNat) := by
    rwa [← toNat_of_fields hn hop hzero, ← mem_commandWords_iff]
  have plain {op : Byte} (i : Instr) := plainCommand_of_not_mem (w := w) (op := op) i h
  rw [decodeCommand]
  split
  · next hop => exact if_neg fun hzero => outside (n := 3) (by decide) hop hzero (inOpcodeMap_intctl _)
  split
  · next hop => exact plain _ hop (by simp [InOpcodeMap])
  split
  · next hop =>
    split
    · next hzero =>
      split
      · next s hs => exact absurd (inOpcodeMap_enq hs) (outside (n := 2) (by decide) hop hzero)
      · rfl
    · rfl
  split
  · next hop => exact plain _ hop (by simp [InOpcodeMap])
  split
  · next hop => exact plain _ hop (by simp [InOpcodeMap])
  split
  · next hop => exact if_neg fun hzero => outside (n := 2) (by decide) hop hzero (inOpcodeMap_start _)
  split
  · next hop => exact plain _ hop (by simp [InOpcodeMap])
  split
  · next hop => exact plain _ hop (by simp [InOpcodeMap])
  · rfl

/-- The words of the opcode map are words of the rows of R83, other than ENQ with slot 3. -/
theorem isCommandWord_of_mem {w : Word} (h : w ∈ commandWords) : isCommandWord w = true := by
  unfold commandWords at h
  fin_cases h <;> rfl

theorem decodeCommand_ne_illegal {w : Word} (h : w ∈ commandWords) (x : Word) : decodeCommand w ≠ .illegal x := by
  unfold commandWords at h
  fin_cases h <;> exact Instr.noConfusion

/-- Every word is the encoding of what it decodes to, under every configuration. -/
theorem encode_decodeCommand (c : Config) (w : Word) : encode c (decodeCommand w) = .cmd w := by
  by_cases h : w ∈ commandWords
  · unfold commandWords at h
    fin_cases h <;> rfl
  · rw [decodeCommand_of_not_mem h, encode]

theorem decodeCommand_intctlWord (g v h : Bool) : decodeCommand (intctlWord g v h) = .intctl g v h := by
  revert g v h
  decide

theorem decodeCommand_enq (s : Slot) :
    decodeCommand (0x03000000#32 ||| (slotCode s).setWidth 32) = .enq s := by
  cases s <;> rfl

theorem decodeCommand_start (k : Strategy) :
    decodeCommand (0x06000000#32 ||| (strategyCode k).setWidth 32) = .start k := by
  cases k <;> rfl

/-! ## Port words -/

/-- A DMA register word is its field below the high byte of its register (R84). -/
theorem portWord_eq_append (high field : Byte) : portWord (high ++ 0#8) field = high ++ field := by
  refine BitVec.eq_of_getLsbD_eq fun i hi => ?_
  rw [portWord, BitVec.getLsbD_or, BitVec.getLsbD_append, BitVec.getLsbD_append, BitVec.getLsbD_setWidth]
  by_cases h : i < 8
  · simp [h, hi]
  · simp [h, BitVec.getLsbD_of_ge field i (by omega)]

/-- A word is its upper field above its lower field. -/
theorem append_fields {m n : Nat} (w : BitVec (m + n)) : w.extractLsb' n m ++ w.extractLsb' 0 n = w := by
  refine BitVec.eq_of_getLsbD_eq fun i hi => ?_
  rw [BitVec.getLsbD_append, BitVec.getLsbD_extractLsb', BitVec.getLsbD_extractLsb']
  by_cases hlow : i < n
  · simp [hlow]
  · simp [hlow, show n + (i - n) = i by omega, show i - n < m by omega]

/-- A field above another field is a sum. -/
theorem append_toNat {m n : Nat} (x : BitVec m) (y : BitVec n) : (x ++ y).toNat = x.toNat * 2 ^ n + y.toNat := by
  rw [BitVec.toNat_append, ← Nat.shiftLeft_add_eq_or_of_lt y.isLt, Nat.shiftLeft_eq]

theorem append_eq_ofNat {m n : Nat} (x : BitVec m) (y : BitVec n) :
    x ++ y = BitVec.ofNat (m + n) (x.toNat * 2 ^ n + y.toNat) := by
  rw [← append_toNat, BitVec.ofNat_toNat, BitVec.setWidth_eq]

/-- A DMA register word as a sum of its two bytes. -/
theorem portWord_eq_ofNat (high field : Byte) :
    portWord (high ++ 0#8) field = BitVec.ofNat 16 (high.toNat * 256 + field.toNat) := by
  rw [portWord_eq_append]
  exact append_eq_ofNat (m := 8) (n := 8) high field

/-- A word with the high byte of a register is that register's word for its low byte. -/
theorem portWord_of_high {w : Half} {high : Byte} (h : w.extractLsb' 8 8 = high) :
    portWord (high ++ 0#8) (w.extractLsb' 0 8) = w := by
  rw [portWord_eq_append, ← h]
  exact append_fields (m := 8) (n := 8) w

theorem highByte_append (high field : Byte) : (high ++ field : Half).extractLsb' 8 8 = high :=
  BitVec.extractLsb'_append_eq_left

theorem lowByte_append (high field : Byte) : (high ++ field : Half).extractLsb' 0 8 = field :=
  BitVec.extractLsb'_append_eq_right

/-- The seven field bits of ADDRH, below a bit 7 of 0 (R84). -/
theorem lowByte_of_bit7_zero {w : Half} (h : w.extractLsb' 7 1 = 0#1) :
    (w.extractLsb' 0 7).setWidth 8 = w.extractLsb' 0 8 := by
  have hbit : w.getLsbD 7 = false := by
    simpa using congrArg (·.getLsbD 0) h
  refine BitVec.eq_of_getLsbD_eq fun i hi => ?_
  obtain hlow | rfl : i < 7 ∨ i = 7 := by omega
  · simp [hlow, hi]
  · rw [BitVec.getLsbD_setWidth, BitVec.getLsbD_extractLsb', BitVec.getLsbD_extractLsb', hbit]
    rfl

theorem addrhField_append (high : Byte) (field : BitVec 7) :
    (high ++ field.setWidth 8 : Half).extractLsb' 7 1 = 0#1
      ∧ (high ++ field.setWidth 8 : Half).extractLsb' 0 7 = field := by
  refine ⟨BitVec.eq_of_getLsbD_eq fun i hi => ?_, BitVec.eq_of_getLsbD_eq fun i hi => ?_⟩
  · obtain rfl : i = 0 := by omega
    rw [BitVec.getLsbD_extractLsb', BitVec.getLsbD_append, BitVec.getLsbD_setWidth,
      BitVec.getLsbD_of_ge field 7 (by decide)]
    rfl
  · rw [BitVec.getLsbD_extractLsb', BitVec.getLsbD_append, BitVec.getLsbD_setWidth]
    simp [hi, show i < 8 by omega]

/-- A word that is no DMA register word reads as a display word or as no row (log 16). -/
theorem decodeControl16_of_not_dma (c : Config) {w : Half} (h : isDmaRegisterWord w = false) :
    decodeControl16 c w =
      if w = c.dispOff then some .outDispOff else if w = c.dispOn then some .outDispOn else none := by
  simp only [isDmaRegisterWord, Bool.or_eq_false_iff, beq_eq_false_iff_ne, Bool.and_eq_false_imp, and_assoc,
    beq_iff_eq] at h
  obtain ⟨h3, h4, h5, h6, h7⟩ := h
  have h7 : ¬ (w.extractLsb' 8 8 = 0x97#8 ∧ w.extractLsb' 7 1 = 0#1) := fun ⟨hhigh, hbit⟩ => h7 hhigh hbit
  rw [decodeControl16, if_neg h3, if_neg h4, if_neg h5, if_neg h6, if_neg h7]

/-- A control-port word that reads as a row is the word of that row. -/
theorem encode_of_decodeControl16 {c : Config} {w : Half} {i : Instr} (h : decodeControl16 c w = some i) :
    encode c i = .port (.ctrl16 w) := by
  have row {high : Byte} (hhigh : w.extractLsb' 8 8 = high) := congrArg (Signal.port ∘ .ctrl16) (portWord_of_high hhigh)
  rw [decodeControl16] at h
  split at h
  · next hhigh => cases h; exact row hhigh
  split at h
  · next hhigh => cases h; exact row hhigh
  split at h
  · next hhigh => cases h; exact row hhigh
  split at h
  · next hhigh => cases h; exact row hhigh
  split at h
  · next hhigh =>
    cases h
    rw [encode, lowByte_of_bit7_zero hhigh.2]
    exact row hhigh.1
  split at h
  · next hoff => cases h; rw [encode, hoff]
  split at h
  · next hon => cases h; rw [encode, hon]
  · cases h

/-! ## The default color-memory command -/

/-- The default formula at the color-memory byte addresses: only the shifted address and the path flag are set. -/
theorem cramCommandWord_default {c : Config} (hc : c.cramCommand = .vdpDefault) {a : Nat} (ha : a < 128) (dma : Bool) :
    (cramCommandWord c a dma).toNat = 0xC0000000 + a * 65536 + if dma then 128 else 0 := by
  rw [cramCommandWord, hc]
  revert a dma
  decide

/-! ## The statements -/

/-- Settles O1: seven closed words. -/
theorem wordsReadAsTheirRows : Obligations.WordsReadAsTheirRows := by
  unfold Obligations.WordsReadAsTheirRows
  decide

/-- Settles O2, row by row: a command row by its words, an output row by the two bytes of its word. -/
theorem decodeOfEncodeIsTheInstruction : Obligations.DecodeOfEncodeIsTheInstruction := by
  intro c i hwf
  have row (high field : Byte) :
      decode c (.port (.ctrl16 (portWord (high ++ 0#8) field))) = decodeControl16 c (high ++ field) := by
    rw [decode, portWord_eq_append]
  cases i with
  | intctl g v h => exact congrArg some (decodeCommand_intctlWord g v h)
  | enq s => exact congrArg some (decodeCommand_enq s)
  | start k => exact congrArg some (decodeCommand_start k)
  | illegal w =>
    have hmem : w ∉ commandWords := fun h => by
      rw [Instr.wf, isCommandWord_of_mem h] at hwf
      cases hwf
    exact congrArg some (decodeCommand_of_not_mem hmem)
  | outLenl field => exact (row 0x93#8 field).trans (by simp [decodeControl16, highByte_append, lowByte_append])
  | outLenh field => exact (row 0x94#8 field).trans (by simp [decodeControl16, highByte_append, lowByte_append])
  | outAddrl field => exact (row 0x95#8 field).trans (by simp [decodeControl16, highByte_append, lowByte_append])
  | outAddrm field => exact (row 0x96#8 field).trans (by simp [decodeControl16, highByte_append, lowByte_append])
  | outAddrh field =>
    obtain ⟨hbit, hfield⟩ := addrhField_append 0x97#8 field
    exact (row 0x97#8 _).trans (by simp [decodeControl16, highByte_append, hbit, hfield])
  | outTrigger dest => rfl
  | outCramcmd address dma => cases hwf
  | outDispOff =>
    have hdma : isDmaRegisterWord c.dispOff = false := by simpa [Instr.wf] using hwf
    exact (decodeControl16_of_not_dma c hdma).trans (if_pos rfl)
  | outDispOn =>
    obtain ⟨hdma, hne⟩ : isDmaRegisterWord c.dispOn = false ∧ c.dispOn ≠ c.dispOff := by simpa [Instr.wf] using hwf
    exact (decodeControl16_of_not_dma c hdma).trans ((if_neg hne).trans (if_pos rfl))
  | outColor2 first second =>
    exact congrArg some (congrArg₂ Instr.outColor2 BitVec.extractLsb'_append_eq_left BitVec.extractLsb'_append_eq_right)
  | seed | flush | swapreq | pace | adv | vint | hint => rfl

/-- Settles O3: command words by the opcode map, port words by their kind. -/
theorem encodeOfDecodeIsTheWord : Obligations.EncodeOfDecodeIsTheWord := by
  refine ⟨encode_decodeCommand, fun c e i h => ?_⟩
  cases e with
  | ctrl16 w => exact encode_of_decodeControl16 h
  | ctrl32 w => cases h; rfl
  | data32 w =>
    cases h
    exact congrArg (Signal.port ∘ .data32) (append_fields (m := 16) (n := 16) w)

/-- Settles O4: the opcode map is the list of the command words. -/
theorem illegalWordsAreTheOthers : Obligations.IllegalWordsAreTheOthers := by
  intro w
  rw [← mem_commandWords_iff]
  refine ⟨fun h => ?_, decodeCommand_ne_illegal⟩
  rw [decodeCommand_of_not_mem h]
  exact ⟨rfl, fun s => ⟨raiseError .illegal s, rfl, raiseError_recordsError .illegal s⟩⟩

/-- Settles O5: the default formula at each of the 128 addresses. -/
theorem defaultCramCommandWord : Obligations.DefaultCramCommandWord :=
  fun _ _ dma hc ha => cramCommandWord_default hc ha dma

/-- Settles O6: each row emits one event, whose word is a sum of its fields. -/
theorem outputRowsAppendTheirWord : Obligations.OutputRowsAppendTheirWord := by
  intro s
  have appended {e e' : PortEvent} (h : e = e') :
      (Host.Outcome.next (emit e s) : Host.Outcome State Fault Refusal)
        = .next { s with trace := s.trace ++ [e'] } := by
    rw [h, emit]
  refine ⟨fun f => ⟨?_, ?_, ?_, ?_⟩, fun f => ?_, fun w => rfl, fun a dma => rfl, rfl, rfl, fun x y => ?_⟩
  · exact appended (congrArg _ (portWord_eq_ofNat 0x93#8 f))
  · exact appended (congrArg _ (portWord_eq_ofNat 0x94#8 f))
  · exact appended (congrArg _ (portWord_eq_ofNat 0x95#8 f))
  · exact appended (congrArg _ (portWord_eq_ofNat 0x96#8 f))
  · have h := portWord_eq_ofNat 0x97#8 (f.setWidth 8)
    rw [BitVec.toNat_setWidth_of_le (by decide)] at h
    exact appended (congrArg _ h)
  · exact appended (congrArg PortEvent.data32 (append_eq_ofNat (m := 16) (n := 16) x y))

end Sys2Proof.Proofs
end

section
/-! SUPPORT. The formatted words of a transfer as sums (R84, R100) and the numbers read back from them (R93). The last
part settles the statements about ENQ inside the encoder domain, the round trip (R109) and an empty flush (R110). -/

namespace Sys2Proof.Proofs

open Sys2Proof.Machine Sys2Proof.Spec Sys2Proof.Laws

/-! ## The formatted words -/

/-- The formatted words of any triple are the sums of R84 and R100. -/
theorem encodeOp_eq_formatted (addr dest len : Word) :
    encodeOp addr dest len = formatted addr.toNat len.toNat dest := by
  have word (high field : Byte) {n : Nat} (h : field.toNat = n) :
      portWord (high ++ 0#8) field = BitVec.ofNat 16 (high.toNat * 256 + n) :=
    h ▸ portWord_eq_ofNat high field
  have byte (w : Word) (k : Nat) : ((w >>> k).setWidth 8 : Byte).toNat = w.toNat / 2 ^ k % 256 := by
    rw [BitVec.toNat_setWidth, BitVec.toNat_ushiftRight, Nat.shiftRight_eq_div_pow]
  have seven : ((addr >>> 17).setWidth 8 &&& 0x7F#8 : Byte).toNat = addr.toNat / 131072 % 128 := by
    rw [BitVec.toNat_and, byte]
    exact (Nat.and_two_pow_sub_one_eq_mod _ 7).trans (Nat.mod_mod_of_dvd _ (by decide))
  rw [encodeOp, formatted, DmaOp.mk.injEq]
  exact ⟨word 0x93#8 _ (BitVec.toNat_setWidth ..), word 0x94#8 _ (byte len 8), word 0x95#8 _ (byte addr 1),
    word 0x96#8 _ (byte addr 9), word 0x97#8 _ seven, rfl⟩

/-- The seven address bits of ADDRH, as a number. -/
theorem lowSeven_packsTo (w : Half) : PacksTo ((w &&& 0x7F#16).setWidth 32) 7 (w.toNat % 128) := by
  have hseven : (w &&& 0x7F#16).toNat = w.toNat % 128 := by
    rw [BitVec.toNat_and]
    exact Nat.and_two_pow_sub_one_eq_mod w.toNat 7
  exact ⟨(BitVec.toNat_setWidth_of_le (by decide)).trans hseven, Nat.mod_lt _ (by decide)⟩

/-- The source address is the three address fields in a row, above a bit 0 of 0 (R93). -/
theorem opAddress_toNat (op : DmaOp) :
    (opAddress op).toNat = op.addrL.toNat % 256 * 2 + op.addrM.toNat % 256 * 512 + op.addrH.toNat % 128 * 131072 := by
  have bit0 : PacksTo 0#32 1 0 := ⟨rfl, by decide⟩
  have h := bit0.field (lowByte_packsTo op.addrL) (by decide) |>.field (lowByte_packsTo op.addrM) (by decide)
    |>.field (lowSeven_packsTo op.addrH) (by decide)
  have fromBit0 (x y z : Word) : x ||| y ||| z = 0#32 ||| z ||| y ||| x := by
    rw [BitVec.zero_or, BitVec.or_comm z, BitVec.or_assoc, BitVec.or_comm x]
  rw [opAddress, fromBit0]
  refine h.1.trans ?_
  omega

/-! ## The statements -/

/-- Settles O18: ENQ passes its check inside the domain of R101, and its words are the sums of R84 and R100. -/
theorem enqStoresTheFormattedTransfer : Obligations.EnqStoresTheFormattedTransfer := by
  intro s hdomain v
  have henq (k : Slot) : exec (.enq k) s = .next (setSlot k v s) := by
    rw [exec, execEnq, if_pos ((inEncoderDomain_iff _ _).mpr hdomain), encodeOp_eq_formatted]
  exact ⟨henq .tileset, henq .tilemap, henq .palette⟩

/-- Settles O20: the domain bounds make every field of the words exact. -/
theorem transferSurvivesItsFormattedWords : Obligations.TransferSurvivesItsFormattedWords := by
  intro addr dest len ⟨heven, _, hlen, hend, _⟩
  refine ⟨BitVec.eq_of_toNat_eq ?_, rfl, ?_⟩
  · rw [opAddress_toNat, encodeOp_eq_formatted]
    simp only [formatted, BitVec.toNat_ofNat]
    omega
  · rw [opLength_eq, encodeOp_eq_formatted]
    simp only [formatted, BitVec.toNat_ofNat]
    omega

/-- A flush with no slot ready. -/
theorem exec_flush_empty {s : State} (h0 : s.slot0.ready = false) (h1 : s.slot1.ready = false)
    (h2 : s.slot2.ready = false) : exec .flush s = .next s := by
  rw [execFlush_eq, if_neg (by simp [h0, h1, h2])]

/-- Settles O22: a flush leaves every slot not ready, so a second one finds the queue empty. -/
theorem flushOfAnEmptyQueueDoesNothing : Obligations.FlushOfAnEmptyQueueDoesNothing := by
  refine ⟨fun s h0 h1 h2 => exec_flush_empty h0 h1 h2, fun s => ⟨_, execFlush_eq s, ?_⟩⟩
  split
  · exact exec_flush_empty rfl rfl rfl
  · next h =>
    simp only [Bool.or_eq_true, not_or, Bool.not_eq_true] at h
    exact exec_flush_empty h.1.1 h.1.2 h.2

end Sys2Proof.Proofs
end

section
/-! SUPPORT. The palette buffers as intervals of host memory (R26, R121), and the invariants of Safety.lean kept by each
instruction and each input. The last part settles the statements about reset, steps and reachable states. -/

namespace Sys2Proof.Proofs

open Sys2Proof.Machine Sys2Proof.Spec Sys2Proof.Laws

/-! ## The palette buffers -/

theorem buffersFit_iff (a b : Word) (n : Nat) : buffersFit a b n = true ↔ BuffersFit a.toNat b.toNat n := by
  simp only [buffersFit, bufferFits, BuffersFit, BufferFits, Bool.and_eq_true, decide_eq_true_eq,
    Nat.shiftRight_eq_div_pow, and_assoc]

/-- Adding a number to an address that stays inside 32 bits. -/
theorem toNat_add_ofNat {x : Word} {n : Nat} (h : x.toNat + n < 2 ^ 32) :
    (x + BitVec.ofNat 32 n).toNat = x.toNat + n := by
  rw [BitVec.toNat_add, BitVec.toNat_ofNat, Nat.add_mod_mod, Nat.mod_eq_of_lt h]

/-- A strip below P_NUM_STRIPS lies inside the buffer, sixteen bytes of it at least. -/
theorem strip_in_buffer {c : Config} (hc : c.wf = true) {k : Nat} (hk : k < c.numStrips) :
    k * c.stripStride + 16 ≤ c.bufferBytes := by
  obtain ⟨_, hstride, _⟩ := wf_stride hc
  have : (k + 1) * c.stripStride ≤ c.numStrips * c.stripStride := Nat.mul_le_mul_right _ hk
  rw [Nat.succ_mul] at this
  simp only [Config.bufferBytes]
  omega

theorem strips_le_buffer {c : Config} {k : Nat} (hk : k ≤ c.numStrips) : k * c.stripStride ≤ c.bufferBytes :=
  Nat.mul_le_mul_right _ hk

theorem inv_seeded_of_enabled {s : State} (h : Inv s) (hg : s.gie = true) (hs : s.vie = true ∨ s.hie = true) :
    s.seeded = true := by
  by_contra hn
  have := h.enables (Bool.eq_false_iff.mpr hn)
  simp_all

/-- R26: once seeded, each buffer ends inside the 24-bit address space. -/
theorem inv_buffer_end {s : State} (h : Inv s) (hs : s.seeded = true) :
    s.bufA.toNat + s.cfg.bufferBytes ≤ 2 ^ 24 ∧ s.bufB.toNat + s.cfg.bufferBytes ≤ 2 ^ 24 := by
  obtain ⟨⟨_, ha, _⟩, ⟨_, hb, _⟩, _⟩ := (buffersFit_iff _ _ _).mp (h.buffers hs)
  have := strip_in_buffer h.wf (wf_ranges h.wf).2.2.2.2.1.1
  omega

theorem renderBase_cases (s : State) :
    (renderBase s = s.bufA ∧ unpackBase s = s.bufB) ∨ (renderBase s = s.bufB ∧ unpackBase s = s.bufA) := by
  unfold renderBase unpackBase
  cases s.rsel <;> simp

theorem nextRenderBase_cases (s : State) : nextRenderBase s = s.bufA ∨ nextRenderBase s = s.bufB := by
  rw [nextRenderBase]
  obtain ⟨hr, hu⟩ | ⟨hr, hu⟩ := renderBase_cases s
  · rw [hr, hu]; split <;> simp
  · rw [hr, hu]; split <;> simp

theorem inv_render_end {s : State} (h : Inv s) (hs : s.seeded = true) :
    (renderBase s).toNat + s.cfg.bufferBytes ≤ 2 ^ 24 := by
  obtain ⟨ha, hb⟩ := inv_buffer_end h hs
  obtain ⟨hr, _⟩ | ⟨hr, _⟩ := renderBase_cases s
  · rwa [hr]
  · rwa [hr]

theorem inv_nextRender_end {s : State} (h : Inv s) (hs : s.seeded = true) :
    (nextRenderBase s).toNat + s.cfg.bufferBytes ≤ 2 ^ 24 := by
  obtain ⟨ha, hb⟩ := inv_buffer_end h hs
  obtain hr | hr := nextRenderBase_cases s
  · rwa [hr]
  · rwa [hr]

/-- The Render buffer of the state a VINT service begins its frame from (R171). -/
theorem renderBase_swapped (s : State) : renderBase (swapped s) = nextRenderBase s := by
  unfold renderBase swapped nextRenderBase unpackBase renderBase
  cases s.swapPending <;> cases s.rsel <;> rfl

/-- The strip a HINT writes lies inside the Render buffer. -/
theorem inv_strip_end {s : State} (h : Inv s) (hs : s.seeded = true) (hk : s.hstrip.toNat < s.cfg.numStrips) :
    s.hptr.toNat + 16 ≤ (renderBase s).toNat + s.cfg.bufferBytes := by
  rw [h.pointer hs]
  have := strip_in_buffer h.wf hk
  omega

/-! ## Each instruction keeps the invariants -/

/-- R41: raising an error records its code, and names it first where none was recorded. -/
theorem inv_raiseError {s : State} (h : Inv s) (e : ErrorCode) : Inv (raiseError e s) := by
  obtain ⟨hbits, hfirst, _⟩ := raiseError_recordsError e s
  obtain ⟨hpos, hle⟩ := errorNumber_bounds e
  refine { h with noError := fun hzero => ?_, firstError := fun _ => ?_ }
  · rw [hzero] at hfirst
    split at hfirst
    · exact absurd hfirst (by simp; omega)
    · next hne => exact absurd (BitVec.eq_of_toNat_eq hfirst.symm) hne
  · rw [hfirst]
    split
    · exact ⟨hle, by rw [hbits _ (by omega)]; simp; omega⟩
    · next hne =>
      obtain ⟨hnum, hbit⟩ := h.firstError hne
      exact ⟨hnum, by rw [hbits _ (by omega), hbit, Bool.true_or]⟩

theorem inv_intctl {g v h : Bool} {s t : State} (hs : Inv s) (he : exec (.intctl g v h) s = .next t) : Inv t := by
  obtain ⟨_, rfl⟩ | ⟨hok, rfl⟩ := exec_intctl he
  · exact inv_raiseError hs _
  · have henables (hseeded : s.seeded = false) : g = false ∨ v = false ∧ h = false := by
      simpa [hseeded, or_iff_not_imp_left] using hok
    exact { hs with enables := henables }

theorem inv_seed {s t : State} (hs : Inv s) (he : exec .seed s = .next t) : Inv t := by
  obtain ⟨_, rfl⟩ | ⟨hgie, hfit, rfl⟩ | ⟨_, _, rfl⟩ := exec_seed he
  · exact inv_raiseError hs _
  · exact { hs with
      strips := Nat.zero_le _
      pointer := fun _ => by simp [renderBase]
      resting := HState.noConfusion
      enables := fun _ => .inl hgie
      buffers := fun _ => hfit
      pair := by simp }
  · exact inv_raiseError hs _

theorem inv_enq {k : Slot} {s t : State} (hs : Inv s) (he : exec (.enq k) s = .next t) : Inv t := by
  obtain ⟨hdomain, rfl⟩ | ⟨_, rfl⟩ := exec_enq he
  · have hslots (j : Slot) (hready : (slotOf j (setSlot k ⟨true, encodeOp s.arg0 s.arg1 s.arg2⟩ s)).ready = true) :
        ∃ addr dest len, inEncoderDomain addr len = true
          ∧ (slotOf j (setSlot k ⟨true, encodeOp s.arg0 s.arg1 s.arg2⟩ s)).op = encodeOp addr dest len := by
      by_cases hj : j = k
      · subst hj
        exact ⟨_, _, _, hdomain, by rw [slotOf_setSlot_same]⟩
      · rw [slotOf_setSlot_other hj] at hready ⊢
        exact hs.slots j hready
    cases k <;> exact { hs with slots := hslots }
  · exact inv_raiseError hs _

theorem inv_flush {s t : State} (hs : Inv s) (he : exec .flush s = .next t) : Inv t := by
  rw [execFlush_eq] at he
  cases he
  split
  · exact { hs with slots := fun k hready => by cases k <;> cases hready }
  · exact hs

theorem inv_swapreq {s t : State} (hs : Inv s) (he : exec .swapreq s = .next t) : Inv t := by
  obtain rfl := exec_swapreq he
  exact { hs with }

/-- The first index and remainder of the delta strategy are those of tick 0 (R150). -/
theorem inv_start {k : Strategy} {s t : State} (hs : Inv s) (he : exec (.start k) s = .next t) : Inv t := by
  obtain ⟨_, rfl⟩ | ⟨_, rfl⟩ := exec_start he
  · exact inv_raiseError hs _
  · obtain ⟨hframes, hlast, _⟩ := wf_frames hs.wf
    exact { hs with
      parity := by simp
      frame := fun _ => hframes
      deltaTick := maxTicks_pos hs.wf
      deltaIndex := by simp [exactIndex]
      deltaRemainder := by simp
      lut := fun _ u hu => by
        have := exact_lt_numFrames hs.wf hu
        rw [lutEntry_built _ hu rfl, BitVec.toNat_ofNat]
        exact Nat.mod_eq_of_lt (this.trans_le (hlast.trans (by decide))) }

/-- The quotient of a sum from the quotient and the remainder of one summand. -/
theorem div_add_carry (a d : Nat) {m : Nat} (hm : 0 < m) : a / m + (a % m + d) / m = (a + d) / m := by
  conv_rhs => rw [← Nat.div_add_mod a m, Nat.add_assoc, Nat.mul_add_div hm]

/-- R155: the delta strategy leaves PI and PA at the exact index and remainder of the tick. -/
theorem deltaUpdate_exact {s : State} (hs : Inv s) {t : Word} (ht : t.toNat < s.cfg.maxTicks) :
    (deltaUpdate t s).pidx.toNat = exactIndex s.cfg t.toNat
      ∧ (deltaUpdate t s).pa.toNat = t.toNat * s.cfg.targetRate % s.cfg.refresh
      ∧ (deltaUpdate t s).pt = t := by
  have hR := wf_refresh_pos hs.wf
  have hindex : (BitVec.ofNat 16 (exactIndex s.cfg t.toNat)).toNat = exactIndex s.cfg t.toNat := by
    have := exact_lt_numFrames hs.wf ht
    have := (wf_frames hs.wf).2.1
    rw [BitVec.toNat_ofNat, Nat.mod_eq_of_lt]
    unfold exactIndex
    omega
  have hremainder (x : Nat) : (BitVec.ofNat 8 (x % s.cfg.refresh)).toNat = x % s.cfg.refresh := by
    have := Nat.mod_lt x hR
    have := (wf_ranges hs.wf).2.2.2.2.2.2
    rw [BitVec.toNat_ofNat, Nat.mod_eq_of_lt (by omega)]
  rcases Nat.lt_trichotomy t.toNat s.pt.toNat with hlt | heq | hgt
  · rw [deltaUpdate_behind hlt]
    exact ⟨hindex, hremainder _, rfl⟩
  · rw [deltaUpdate_same heq, BitVec.eq_of_toNat_eq heq]
    exact ⟨hs.deltaIndex, hs.deltaRemainder, rfl⟩
  · rw [deltaUpdate_ahead hgt, hs.deltaRemainder, hs.deltaIndex]
    have hsum : t.toNat * s.cfg.targetRate
        = s.pt.toNat * s.cfg.targetRate + (t.toNat - s.pt.toNat) * s.cfg.targetRate := by
      rw [← Nat.add_mul, Nat.add_sub_cancel' hgt.le]
    refine ⟨?_, ?_, rfl⟩
    · rw [exactIndex, div_add_carry _ _ hR, ← hsum]
      exact hindex
    · rw [hremainder, hsum, Nat.mod_add_mod]

theorem inv_pace {s t : State} (hs : Inv s) (he : exec .pace s = .next t) : Inv t := by
  obtain ⟨_, rfl⟩ | ⟨_, _, rfl⟩ | ⟨_, hrange, rfl⟩ := exec_pace he
  · exact inv_raiseError hs _
  · exact inv_raiseError hs _
  · have hstate : (paceByStrategy s.arg0 s).2 = s ∨ (paceByStrategy s.arg0 s).2 = deltaUpdate s.arg0 s := by
      rw [paceByStrategy]
      cases s.strat
      · exact .inl rfl
      · exact .inl rfl
      · exact .inr rfl
      · exact .inl rfl
    obtain hsame | hdelta := hstate
    · rw [hsame]
      exact { hs with }
    · rw [hdelta]
      obtain ⟨hindex, hremainder, htick⟩ := deltaUpdate_exact hs hrange
      obtain ⟨i, a, hframe⟩ := deltaUpdate_frame s.arg0 s
      rw [hframe] at hindex hremainder ⊢
      exact { hs with deltaTick := hrange, deltaIndex := hindex, deltaRemainder := hremainder }

theorem inv_adv {s t : State} (hs : Inv s) (he : exec .adv s = .next t) : Inv t := by
  obtain ⟨_, rfl⟩ | ⟨_, _, _, rfl⟩ | ⟨_, _, hnext, rfl⟩ := exec_adv he
  · exact inv_raiseError hs _
  · exact { hs with }
  · have hlast := (wf_frames hs.wf).2.1
    have hindex : (BitVec.ofNat 16 (nextIndex s.cfg s.lidx.toNat s.arg0.toNat)).toNat
        = nextIndex s.cfg s.lidx.toNat s.arg0.toNat := by
      rw [BitVec.toNat_ofNat, Nat.mod_eq_of_lt (by omega)]
    exact { hs with
      parity := by rw [BitVec.getLsbD_ofNat, Nat.testBit_zero]; rfl
      frame := fun _ => hindex.trans_lt hnext }

/-- What an enabled VINT service can do, as one update of the state (R202, R123, R171). -/
theorem vint_enabled_frame {s t : State} (h : beginFrame (swapped s) = .ok t) :
    ∃ (n : Nat) (es : List PortEvent), s.freeCtr ≤ n ∧ t = { s with
      tick := s.tick + 1, rsel := if s.swapPending then !s.rsel else s.rsel, swapPending := false
      freeCtr := n, trace := s.trace ++ es, hline := s.cfg.lineOffset, hstate := .idle
      hstrip := BitVec.ofNat 8 s.cfg.preload
      hptr := nextRenderBase s + BitVec.ofNat 32 (s.cfg.preload * s.cfg.stripStride)
      toggle := decide (s.cfg.preload % 2 = 1) } := by
  obtain ⟨n, es, hn, rfl⟩ := beginFrame_ok h
  exact ⟨n, es, hn, by rw [renderBase_swapped]; rfl⟩

theorem preload_toNat {c : Config} (hc : c.wf = true) : (BitVec.ofNat 8 c.preload).toNat = c.preload := by
  have := (wf_ranges hc).2.2.2.1
  rw [BitVec.toNat_ofNat, Nat.mod_eq_of_lt (by omega)]

/-- The pointer past the pre-loaded strips of the Render buffer (R123). -/
theorem preloaded_hptr_toNat {s : State} (hs : Inv s) (hseeded : s.seeded = true) :
    (nextRenderBase s + BitVec.ofNat 32 (s.cfg.preload * s.cfg.stripStride)).toNat
      = (nextRenderBase s).toNat + s.cfg.preload * s.cfg.stripStride := by
  have hend := inv_nextRender_end hs hseeded
  have hstrips := strips_le_buffer (wf_preload hs.wf)
  exact toNat_add_ofNat (by omega)

theorem lowBit_eq_odd {n : Nat} (x : BitVec n) : x.getLsbD 0 = decide (x.toNat % 2 = 1) :=
  Nat.testBit_zero x.toNat

theorem inv_vint {s t : State} (hs : Inv s) (he : exec .vint s = .next t) : Inv t := by
  obtain ⟨_, rfl⟩ | ⟨hgie, hvie, hframe⟩ := exec_vint he
  · exact { hs with }
  · obtain ⟨n, es, _, rfl⟩ := vint_enabled_frame hframe
    have hptr := preloaded_hptr_toNat hs (inv_seeded_of_enabled hs hgie (.inl hvie))
    have hbase := renderBase_swapped s
    have hcount := preload_toNat hs.wf
    exact { hs with
      strips := hcount.trans_le (wf_preload hs.wf)
      pointer := fun _ => by
        rw [← hbase] at hptr ⊢
        exact hptr.trans (congrArg (_ + · * _) hcount.symm)
      resting := HState.noConfusion
      pair := by rw [lowBit_eq_odd, hcount] }

/-- One more strip of a buffer that has one left. -/
theorem succ_hstrip_toNat {s : State} (hs : Inv s) (hleft : s.hstrip.toNat < s.cfg.numStrips) :
    (s.hstrip + 1).toNat = s.hstrip.toNat + 1 := by
  have := (wf_ranges hs.wf).2.2.2.2.1.2
  rw [BitVec.toNat_add, Nat.mod_eq_of_lt (by simp; omega)]
  rfl

/-- The pointer past one more strip of the Render buffer (R125). -/
theorem advanced_hptr_toNat {s : State} (hs : Inv s) (hseeded : s.seeded = true)
    (hleft : s.hstrip.toNat < s.cfg.numStrips) :
    (s.hptr + BitVec.ofNat 32 s.cfg.stripStride).toNat
      = (renderBase s).toNat + (s.hstrip.toNat + 1) * s.cfg.stripStride := by
  have hend := inv_render_end hs hseeded
  have hstrips := strips_le_buffer (c := s.cfg) hleft
  have hptr := hs.pointer hseeded
  rw [Nat.succ_mul] at hstrips ⊢
  rw [toNat_add_ofNat (by omega)]
  omega

theorem inv_hint {s t : State} (hs : Inv s) (he : exec .hint s = .next t) : Inv t := by
  obtain ⟨_, rfl⟩ | ⟨hgie, hhie, hstep⟩ := exec_hint he
  · exact { hs with }
  · obtain ⟨_, rfl⟩ | ⟨_, hleft, n, es, _, rfl⟩ := hintStep_ok hstep
    · exact { hs with resting := HState.noConfusion }
    · have hptr := advanced_hptr_toNat hs (inv_seeded_of_enabled hs hgie (.inr hhie)) hleft
      have hcount := succ_hstrip_toNat hs hleft
      have htoggle : (!s.toggle) = (s.hstrip + 1).getLsbD 0 := by
        rw [hs.pair, lowBit_eq_odd, lowBit_eq_odd, hcount]
        grind
      exact { hs with
        strips := hcount.trans_le hleft
        pointer := fun _ => hptr.trans (congrArg (_ + · * _) hcount.symm)
        resting := HState.noConfusion
        pair := htoggle }

theorem exec_outputRow_next {i : Instr} {s t : State} (hi : isOutputRow i = true) (he : exec i s = .next t) :
    ∃ e, t = { s with trace := s.trace ++ [e] } := by
  obtain ⟨e, h⟩ := exec_outputRow hi s
  cases he.symm.trans h
  exact ⟨e, rfl⟩

theorem exec_keeps_inv {i : Instr} {s t : State} (hs : Inv s) (he : exec i s = .next t) : Inv t := by
  have row (hi : isOutputRow i = true) : Inv t := by
    obtain ⟨e, rfl⟩ := exec_outputRow_next hi he
    exact { hs with }
  cases i with
  | intctl g v h => exact inv_intctl hs he
  | seed => exact inv_seed hs he
  | enq k => exact inv_enq hs he
  | flush => exact inv_flush hs he
  | swapreq => exact inv_swapreq hs he
  | start k => exact inv_start hs he
  | pace => exact inv_pace hs he
  | adv => exact inv_adv hs he
  | illegal w => exact exec_illegal he ▸ inv_raiseError hs _
  | vint => exact inv_vint hs he
  | hint => exact inv_hint hs he
  | outLenl | outLenh | outAddrl | outAddrm | outAddrh | outTrigger | outCramcmd | outDispOff | outDispOn | outColor2 =>
    exact row rfl

/-! ## The services written out -/

theorem exec_vint_enabled {s : State} (hgie : s.gie = true) (hvie : s.vie = true) :
    exec .vint s = outcomeOf (stripWrites s.cfg.preload (rewindStrips (nextRenderBase s) (swapped s))) := by
  rw [exec, execVint]
  refine (if_pos (by rw [hgie, hvie]; rfl)).trans ?_
  rw [swapStep_ticked, beginFrame, renderBase_swapped]
  rfl

theorem exec_hint_enabled {s : State} (hgie : s.gie = true) (hhie : s.hie = true) :
    exec .hint s = outcomeOf (hintStep s) := by
  rw [exec, execHint, hgie, hhie]
  rfl

/-- R127 outside the window, or with every strip written. -/
theorem hintStep_rests {s : State}
    (h : inWindow s.cfg (s.hline + BitVec.ofNat 16 s.cfg.stripHeight) = false ∨ s.cfg.numStrips ≤ s.hstrip.toNat) :
    hintStep s = .ok { s with hline := s.hline + BitVec.ofNat 16 s.cfg.stripHeight, hstate := .idle } := by
  rw [hintStep]
  refine if_pos ?_
  simpa using h

/-- R127 inside the window, with a strip left: the strip write between the display words. -/
theorem hintStep_writing {s : State} (hin : inWindow s.cfg (s.hline + BitVec.ofNat 16 s.cfg.stripHeight) = true)
    (hleft : s.hstrip.toNat < s.cfg.numStrips) :
    hintStep s = (stripWrite (emit (.ctrl16 s.cfg.dispOff)
      { s with hline := s.hline + BitVec.ofNat 16 s.cfg.stripHeight, hstate := .swapping })).map
        fun u => { emit (.ctrl16 s.cfg.dispOn) u with hstate := .armed } := by
  rw [hintStep]
  refine (if_neg (by simp [hin, hleft])).trans ?_
  split <;> next h => rw [h]; rfl

/-! ## Each instruction completes -/

/-- A masked pulse is only counted; an enabled service reads only inside the Render buffer, which ends inside the
address space (R217). -/
theorem exec_vint_total {s : State} (hs : Inv s) : ∃ t, exec .vint s = .next t := by
  by_cases hg : (s.gie && s.vie) = true
  · obtain ⟨hgie, hvie⟩ := Bool.and_eq_true_iff.mp hg
    have hend := inv_nextRender_end hs (inv_seeded_of_enabled hs hgie (.inl hvie))
    obtain ⟨t, ht⟩ := stripWrites_total s.cfg.preload (rewindStrips (nextRenderBase s) (swapped s)) fun j hj => by
      have hstrip := strip_in_buffer hs.wf (hj.trans_le (wf_preload hs.wf))
      show (nextRenderBase s + BitVec.ofNat 32 (j * s.cfg.stripStride)).toNat + 15 ≤ _
      rw [toNat_add_ofNat (by omega)]
      omega
    exact ⟨t, (exec_vint_enabled hgie hvie).trans (congrArg outcomeOf ht)⟩
  · exact ⟨_, if_neg hg⟩

theorem exec_hint_total {s : State} (hs : Inv s) : ∃ t, exec .hint s = .next t := by
  by_cases hg : (s.gie && s.hie) = true
  · obtain ⟨hgie, hhie⟩ := Bool.and_eq_true_iff.mp hg
    rw [exec_hint_enabled hgie hhie]
    by_cases hrest : inWindow s.cfg (s.hline + BitVec.ofNat 16 s.cfg.stripHeight) = false
        ∨ s.cfg.numStrips ≤ s.hstrip.toNat
    · exact ⟨_, congrArg outcomeOf (hintStep_rests hrest)⟩
    · simp only [not_or, Bool.not_eq_false, not_le] at hrest
      obtain ⟨hin, hleft⟩ := hrest
      have hseeded := inv_seeded_of_enabled hs hgie (.inr hhie)
      have hstrip := inv_strip_end hs hseeded hleft
      have hend := inv_render_end hs hseeded
      obtain ⟨t, ht⟩ := stripWrite_total (emit (.ctrl16 s.cfg.dispOff)
        { s with hline := s.hline + BitVec.ofNat 16 s.cfg.stripHeight, hstate := .swapping })
        (by rw [emit_hptr]; show s.hptr.toNat + 15 ≤ _; omega)
      rw [hintStep_writing hin hleft, ht]
      exact ⟨_, rfl⟩
  · exact ⟨_, if_neg hg⟩

/-- Only the services can stop. -/
theorem exec_command_total {i : Instr} (hv : i ≠ .vint) (hh : i ≠ .hint) (s : State) : ∃ t, exec i s = .next t := by
  cases i with
  | intctl g v h => rw [exec, execIntctl]; split <;> exact ⟨_, rfl⟩
  | seed =>
    rw [exec, execSeed]
    split
    · exact ⟨_, rfl⟩
    · split <;> exact ⟨_, rfl⟩
  | enq k => rw [exec, execEnq]; split <;> exact ⟨_, rfl⟩
  | flush => exact ⟨_, execFlush_eq s⟩
  | start k => rw [exec, execStart]; split <;> exact ⟨_, rfl⟩
  | pace =>
    rw [exec, execPace]
    split
    · exact ⟨_, rfl⟩
    · split <;> exact ⟨_, rfl⟩
  | adv =>
    rw [exec, execAdv]
    split
    · exact ⟨_, rfl⟩
    · exact ⟨_, (apply_ite Host.Outcome.next ..).symm⟩
  | vint => exact absurd rfl hv
  | hint => exact absurd rfl hh
  | swapreq | illegal | outLenl | outLenh | outAddrl | outAddrm | outAddrh | outTrigger | outCramcmd | outDispOff
  | outDispOn | outColor2 => exact ⟨_, rfl⟩

theorem exec_total {s : State} (hs : Inv s) (i : Instr) : ∃ t, exec i s = .next t := by
  by_cases hv : i = .vint
  · exact hv ▸ exec_vint_total hs
  by_cases hh : i = .hint
  · exact hh ▸ exec_hint_total hs
  exact exec_command_total hv hh s

theorem outcomeOf_ne_refused (e : Except Fault State) (r : Refusal) : outcomeOf e ≠ .refused r := by
  cases e <;> exact nofun

/-- No instruction is refused (opcode table: every row has a meaning). -/
theorem exec_ne_refused (i : Instr) (s : State) (r : Refusal) : exec i s ≠ .refused r := by
  by_cases hv : i = .vint
  · subst hv
    rw [exec, execVint]
    split
    · exact outcomeOf_ne_refused _ r
    · exact nofun
  by_cases hh : i = .hint
  · subst hh
    rw [exec, execHint]
    split
    · exact outcomeOf_ne_refused _ r
    · exact nofun
  obtain ⟨t, ht⟩ := exec_command_total hv hh s
  rw [ht]
  exact nofun

/-! ## Each input keeps the invariants and completes -/

/-- The state after reset, under any well-formed configuration and any host memory (R230). -/
theorem inv_resetFse {s : State} (hwf : s.cfg.wf = true) (hmem : s.mem.wf) : Inv (resetFse s) where
  wf := hwf
  placed := rfl
  mem := hmem
  parity := by simp [resetFse, State.reset]
  strips := Nat.zero_le _
  pointer := by simp [resetFse, State.reset]
  resting := HState.noConfusion
  enables := fun _ => .inl rfl
  frame := by simp [resetFse, State.reset]
  slots := fun k hready => by cases k <;> cases hready
  buffers := by simp [resetFse, State.reset]
  pair := by simp [resetFse, State.reset]
  deltaTick := maxTicks_pos hwf
  deltaIndex := by simp [resetFse, State.reset, exactIndex]
  deltaRemainder := by simp [resetFse, State.reset]
  lut := by simp [resetFse, State.reset]
  noError := fun _ => rfl
  firstError := fun h => absurd rfl h

theorem inv_inputs {s : State} (hs : Inv s) (is : List Input) : Inv { s with inputs := is } :=
  { hs with }

theorem inv_hostWrite {offset : Byte} {width : AccessWidth} {value : Word} {s t : State} (hs : Inv s)
    (h : hostWrite offset width value s = .next t) : Inv t := by
  obtain he | rfl | rfl | rfl | rfl := hostWrite_cases h
  · exact exec_keeps_inv hs he
  · exact { hs with }
  · exact { hs with }
  · exact { hs with }
  · exact inv_raiseError hs _

/-- A host write runs the command of its word or answers a next state. -/
theorem hostWrite_outcome (offset : Byte) (width : AccessWidth) (value : Word) (s : State) :
    hostWrite offset width value s = exec (decodeCommand value) s ∨ ∃ t, hostWrite offset width value s = .next t := by
  rw [hostWrite]
  split
  · split
    · exact .inl rfl
    split
    · exact .inr ⟨_, rfl⟩
    split
    · exact .inr ⟨_, rfl⟩
    split <;> exact .inr ⟨_, rfl⟩
  · exact .inr ⟨_, rfl⟩

theorem inv_hostRead (offset : Byte) (width : AccessWidth) {s : State} (hs : Inv s) :
    Inv (hostRead offset width s) := by
  obtain ⟨v, h⟩ | h := hostRead_cases offset width s
  · rw [h]
    exact { hs with }
  · rw [h]
    exact { inv_raiseError hs .badacc with }

theorem inv_hostStore (address : BitVec 24) (value : Byte) {s : State} (hs : Inv s) :
    Inv (hostStore address value s) := by
  have hmem := hostStore_mem_wf address value hs.mem
  obtain ⟨_, h⟩ | ⟨_, h⟩ := hostStore_cases address value s
  · rw [h]
    exact inv_raiseError hs _
  · rw [h] at hmem ⊢
    exact { hs with mem := hmem }

theorem takeInput_keeps_inv {i : Input} {s t : State} (hs : Inv s) (h : takeInput i s = .next t) : Inv t := by
  cases i with
  | hostWrite offset width value => exact inv_hostWrite hs h
  | hostRead offset width => cases h; exact inv_hostRead offset width hs
  | vint => exact inv_vint hs h
  | hint => exact inv_hint hs h
  | vintWithHint => exact inv_vint (inv_inputs hs _) h
  | reset => cases h; exact inv_resetFse hs.wf hs.mem
  | hostStore address value => cases h; exact inv_hostStore address value hs

theorem takeInput_total (i : Input) {s : State} (hs : Inv s) : ∃ t, takeInput i s = .next t := by
  cases i with
  | hostWrite offset width value =>
    obtain h | h := hostWrite_outcome offset width value s
    · exact (exec_total hs (decodeCommand value)).imp fun t ht => h.trans ht
    · exact h
  | vint => exact exec_vint_total hs
  | hint => exact exec_hint_total hs
  | vintWithHint => exact exec_vint_total (inv_inputs hs _)
  | hostRead | reset | hostStore => exact ⟨_, rfl⟩

theorem takeInput_ne_refused (i : Input) (s : State) (r : Refusal) : takeInput i s ≠ .refused r := by
  cases i with
  | hostWrite offset width value =>
    rw [takeInput]
    obtain h | ⟨t, h⟩ := hostWrite_outcome offset width value s
    · exact h ▸ exec_ne_refused _ s r
    · exact h ▸ nofun
  | vint => exact exec_ne_refused .vint _ r
  | hint => exact exec_ne_refused .hint _ r
  | vintWithHint => exact exec_ne_refused .vint _ r
  | hostRead | reset | hostStore => exact fun h => nomatch h

theorem step_keeps_inv {s t : State} (hs : Inv s) (h : step s = .next t) : Inv t := by
  obtain ⟨_, i, rest, _, hi⟩ := step_next hs.placed h
  exact takeInput_keeps_inv (inv_inputs hs rest) hi

theorem step_total {s : State} (hs : Inv s) {i : Input} {rest : List Input} (hi : s.inputs = i :: rest) :
    ∃ t, step s = .next t := by
  rw [step_takes hs.placed hs.wf hi]
  exact takeInput_total i (inv_inputs hs rest)

theorem inv_of_reachable {s : State} (h : Reachable s) : Inv s := by
  induction h with
  | start c m is hc hm => exact inv_resetFse (s := { State.reset with cfg := c, mem := m, inputs := is }) hc hm
  | next _ hstep ih => exact step_keeps_inv ih hstep

/-! ## The statements -/

/-- Settles O10: no instruction faults inside the invariants, and each keeps them. -/
theorem everyInputCompletes : Obligations.EveryInputCompletes := by
  intro s i rest hs hi
  obtain ⟨t, ht⟩ := step_total hs hi
  exact ⟨t, ht, step_keeps_inv hs ht⟩

/-- Settles O12: one lemma for each instruction and each input. -/
theorem stepKeepsTheInvariants : Obligations.StepKeepsTheInvariants :=
  fun _ _ => step_keeps_inv

/-- Settles O11: the reference configuration is well-formed and nothing is stored. -/
theorem invariantsHoldAtReset : Obligations.InvariantsHoldAtReset :=
  inv_resetFse (s := State.reset) (by decide) (by decide)

/-- Settles O13: a reachable state has the invariants, of which R51 names seven. -/
theorem reachableStatesSatisfyR51 : Obligations.ReachableStatesSatisfyR51 := by
  intro s hreach
  have hs := inv_of_reachable hreach
  have slot (k : Slot) (hready : (slotOf k s).ready = true) :
      ∃ (addr len : Nat) (dest : Word), EncoderDomain addr len ∧ (slotOf k s).op = formatted addr len dest := by
    obtain ⟨addr, dest, len, hdomain, hop⟩ := hs.slots k hready
    exact ⟨_, _, dest, (inEncoderDomain_iff addr len).mp hdomain, hop.trans (encodeOp_eq_formatted addr dest len)⟩
  have hresting : s.hstate = .idle ∨ s.hstate = .armed := by
    have := hs.resting
    cases h : s.hstate <;> simp_all
  refine ⟨hs.parity, hs.strips, hs.pointer, hresting, hs.enables, hs.frame, fun v hv => ?_⟩
  simp only [List.mem_cons, List.not_mem_nil, or_false] at hv
  obtain rfl | rfl | rfl := hv
  · exact slot .tileset
  · exact slot .tilemap
  · exact slot .palette

/-- Settles O9: the refusals by the branches of `step`; a state with the invariants never faults, since each of its
inputs completes. -/
theorem stepStopsOnlyForItsReasons : Obligations.StepStopsOnlyForItsReasons := by
  intro s
  refine ⟨fun r hr => ?_, step_noInput, fun hinput hwf => step_illFormed hwf hinput, fun f hf hs => ?_⟩
  · by_cases hwf : s.cfg.wf = true
    · cases hp : s.placedWord with
      | some e =>
        rw [step_placed hwf hp, runPortWord] at hr
        split at hr
        · exact absurd hr (exec_ne_refused _ _ r)
        · next hnone => cases hr; exact .inr (.inr ⟨rfl, e, rfl, hnone⟩)
      | none =>
        cases hi : s.inputs with
        | nil => rw [step_noInput hp hi] at hr; cases hr; exact .inl ⟨rfl, rfl, rfl⟩
        | cons i rest =>
          rw [step_takes hp hwf hi] at hr
          exact absurd hr (takeInput_ne_refused i _ r)
    · have hwf := Bool.eq_false_iff.mpr hwf
      by_cases hinput : s.placedWord ≠ none ∨ s.inputs ≠ []
      · rw [step_illFormed hwf hinput] at hr
        cases hr
        exact .inr (.inl ⟨rfl, hwf⟩)
      · simp only [not_or, not_not] at hinput
        rw [step_noInput hinput.1 hinput.2] at hr
        cases hr
        exact .inl ⟨rfl, hinput⟩
  · cases hi : s.inputs with
    | nil => rw [step_noInput hs.placed hi] at hf; cases hf
    | cons i rest =>
      obtain ⟨t, ht⟩ := step_total hs hi
      rw [ht] at hf
      cases hf

end Sys2Proof.Proofs
end

section
/-! SUPPORT. Who writes what: every register under every instruction, by one case for each instruction; and what one
input can do. The last part settles the statements about steps, the error record, TICK, TRACE, reset and host stores. -/

namespace Sys2Proof.Proofs

open Sys2Proof.Machine Sys2Proof.Spec Sys2Proof.Laws

/-- Settles O47, by the cases of each instruction's inversion lemma. -/
theorem eachRegisterHasItsWriters : Obligations.EachRegisterHasItsWriters := by
  intro i s t he
  cases i with
  | intctl g v h =>
    obtain ⟨_, rfl⟩ | ⟨_, rfl⟩ := exec_intctl he
    · simp
    · simp
  | seed =>
    obtain ⟨_, rfl⟩ | ⟨_, _, rfl⟩ | ⟨_, _, rfl⟩ := exec_seed he
    · simp
    · simp
    · simp
  | enq k =>
    obtain ⟨_, rfl⟩ | ⟨_, rfl⟩ := exec_enq he
    · simp
    · simp
  | flush =>
    cases he.symm.trans (execFlush_eq s)
    split
    · simp
    · simp
  | swapreq =>
    obtain rfl := exec_swapreq he
    simp
  | start k =>
    obtain ⟨_, rfl⟩ | ⟨_, rfl⟩ := exec_start he
    · simp
    · simp
  | pace =>
    obtain ⟨_, rfl⟩ | ⟨_, _, rfl⟩ | ⟨_, _, rfl⟩ := exec_pace he
    · simp
    · simp
    · obtain ⟨index, remainder, tick, h⟩ := paceByStrategy_frame s.arg0 s
      simp [h]
  | adv =>
    obtain ⟨_, rfl⟩ | ⟨_, _, _, rfl⟩ | ⟨_, _, _, rfl⟩ := exec_adv he
    · simp
    · simp
    · simp
  | illegal w =>
    obtain rfl := exec_illegal he
    simp
  | vint =>
    obtain ⟨_, rfl⟩ | ⟨_, _, h⟩ := exec_vint he
    · simp
    · obtain ⟨n, es, _, rfl⟩ := vint_enabled_frame h
      simp
  | hint =>
    obtain ⟨_, rfl⟩ | ⟨_, _, h⟩ := exec_hint he
    · simp
    · obtain ⟨_, rfl⟩ | ⟨_, _, n, es, _, rfl⟩ := hintStep_ok h
      · simp
      · simp
  | outLenl | outLenh | outAddrl | outAddrm | outAddrh | outTrigger | outCramcmd | outDispOff | outDispOn | outColor2 =>
    obtain ⟨e, rfl⟩ := exec_outputRow_next (by rfl) he
    simp

/-! ## The writers by name -/

section Writers

variable {i : Instr} {s t : State}

theorem exec_seed_writes (he : exec i s = .next t) (hi : i ≠ .seed) :
    t.bufA = s.bufA ∧ t.bufB = s.bufB ∧ t.seeded = s.seeded :=
  let ⟨_, _, _, hseed, _⟩ := eachRegisterHasItsWriters i s t he
  hseed hi

theorem exec_rsel (he : exec i s = .next t) (hseed : i ≠ .seed) (hvint : i ≠ .vint) : t.rsel = s.rsel :=
  let ⟨_, _, _, _, hrsel, _⟩ := eachRegisterHasItsWriters i s t he
  hrsel hseed hvint

theorem exec_cycler (he : exec i s = .next t) (hseed : i ≠ .seed) (hvint : i ≠ .vint) (hhint : i ≠ .hint) :
    t.hline = s.hline ∧ t.hstrip = s.hstrip ∧ t.hptr = s.hptr ∧ t.toggle = s.toggle ∧ t.hstate = s.hstate :=
  let ⟨_, _, _, _, _, _, hcycler, _⟩ := eachRegisterHasItsWriters i s t he
  hcycler hseed hvint hhint

theorem exec_tick (he : exec i s = .next t) (hvint : i ≠ .vint) (hstart : ∀ k, i ≠ .start k) : t.tick = s.tick :=
  let ⟨_, _, _, _, _, _, _, htick, _⟩ := eachRegisterHasItsWriters i s t he
  htick hvint hstart

theorem exec_start_writes (he : exec i s = .next t) (hi : ∀ k, i ≠ .start k) :
    t.strat = s.strat ∧ t.lut = s.lut ∧ t.started = s.started :=
  let ⟨_, _, _, _, _, _, _, _, hstart, _⟩ := eachRegisterHasItsWriters i s t he
  hstart hi

theorem exec_errors_kept (he : exec i s = .next t) (hi : i = .flush ∨ i = .swapreq ∨ i = .vint ∨ i = .hint) :
    t.errmask = s.errmask ∧ t.firsterr = s.firsterr :=
  let ⟨_, _, _, _, _, _, _, _, _, _, _, _, _, herrors, _⟩ := eachRegisterHasItsWriters i s t he
  herrors hi

/-- A command other than FLUSH leaves TRACE; what is a command is said by its encoding. -/
theorem exec_trace_of_command {c : Config} {w : Word} (he : exec i s = .next t) (henc : encode c i = .cmd w)
    (hflush : i ≠ .flush) : t.trace = s.trace := by
  obtain ⟨_, _, _, _, _, _, _, _, _, _, _, _, _, _, htrace, _⟩ := eachRegisterHasItsWriters i s t he
  refine htrace ?_
  cases i with
  | flush => exact absurd rfl hflush
  | intctl | seed | enq | swapreq | start | pace | adv | illegal => simp
  | vint | hint | outLenl | outLenh | outAddrl | outAddrm | outAddrh | outTrigger | outCramcmd | outDispOff | outDispOn
  | outColor2 => cases henc

theorem exec_races (he : exec i s = .next t) (hi : i ≠ .seed) : t.races = s.races :=
  let ⟨_, _, _, _, _, _, _, _, _, _, _, _, _, _, _, _, _, _, hraces, _⟩ := eachRegisterHasItsWriters i s t he
  hraces hi

theorem exec_freeCtr (he : exec i s = .next t) (hvint : i ≠ .vint) (hhint : i ≠ .hint) : t.freeCtr = s.freeCtr :=
  let ⟨_, _, _, _, _, _, _, _, _, _, _, _, _, _, _, _, _, _, _, hctr, _⟩ := eachRegisterHasItsWriters i s t he
  hctr hvint hhint

/-- No instruction writes the configuration, host memory, the inputs, the placed word or the returned reads. -/
theorem exec_frame (he : exec i s = .next t) :
    t.cfg = s.cfg ∧ t.mem = s.mem ∧ t.inputs = s.inputs ∧ t.placedWord = s.placedWord ∧ t.hostReads = s.hostReads :=
  let ⟨_, _, _, _, _, _, _, _, _, _, _, _, _, _, _, _, _, _, _, _, hframe⟩ := eachRegisterHasItsWriters i s t he
  hframe

end Writers

/-! ## Errors, the trace and the sequencing flags over one instruction -/

/-- R207: an instruction records one error and does nothing else, or leaves the error record. -/
theorem exec_errors {i : Instr} {s t : State} (he : exec i s = .next t) :
    (∃ e, t = raiseError e s) ∨ (t.errmask = s.errmask ∧ t.firsterr = s.firsterr) := by
  cases i with
  | intctl g v h =>
    obtain ⟨_, h⟩ | ⟨_, rfl⟩ := exec_intctl he
    · exact .inl ⟨_, h⟩
    · exact .inr ⟨rfl, rfl⟩
  | seed =>
    obtain ⟨_, h⟩ | ⟨_, _, rfl⟩ | ⟨_, _, h⟩ := exec_seed he
    · exact .inl ⟨_, h⟩
    · exact .inr ⟨rfl, rfl⟩
    · exact .inl ⟨_, h⟩
  | enq k =>
    obtain ⟨_, rfl⟩ | ⟨_, h⟩ := exec_enq he
    · exact .inr ⟨setSlot_errmask .., setSlot_firsterr ..⟩
    · exact .inl ⟨_, h⟩
  | start k =>
    obtain ⟨_, h⟩ | ⟨_, rfl⟩ := exec_start he
    · exact .inl ⟨_, h⟩
    · exact .inr ⟨rfl, rfl⟩
  | pace =>
    obtain ⟨_, h⟩ | ⟨_, _, h⟩ | ⟨_, _, rfl⟩ := exec_pace he
    · exact .inl ⟨_, h⟩
    · exact .inl ⟨_, h⟩
    · obtain ⟨index, remainder, tick, h⟩ := paceByStrategy_frame s.arg0 s
      exact .inr (by rw [h]; exact ⟨rfl, rfl⟩)
  | adv =>
    obtain ⟨_, h⟩ | ⟨_, _, _, rfl⟩ | ⟨_, _, _, rfl⟩ := exec_adv he
    · exact .inl ⟨_, h⟩
    · exact .inr ⟨rfl, rfl⟩
    · exact .inr ⟨rfl, rfl⟩
  | illegal w => exact .inl ⟨_, exec_illegal he⟩
  | flush | swapreq | vint | hint => exact .inr (exec_errors_kept he (by simp))
  | outLenl | outLenh | outAddrl | outAddrm | outAddrh | outTrigger | outCramcmd | outDispOff | outDispOn | outColor2 =>
    obtain ⟨e, rfl⟩ := exec_outputRow_next (by rfl) he
    exact .inr ⟨rfl, rfl⟩

/-- R45: an instruction only appends to TRACE. -/
theorem exec_appends {i : Instr} {s t : State} (he : exec i s = .next t) :
    ∃ es, t.trace = s.trace ++ es := by
  cases i with
  | flush =>
    cases he.symm.trans (execFlush_eq s)
    split
    · exact ⟨_, rfl⟩
    · exact ⟨[], (List.append_nil _).symm⟩
  | vint =>
    obtain ⟨_, rfl⟩ | ⟨_, _, h⟩ := exec_vint he
    · exact ⟨[], (List.append_nil _).symm⟩
    · obtain ⟨n, es, _, rfl⟩ := vint_enabled_frame h
      exact ⟨es, rfl⟩
  | hint =>
    obtain ⟨_, rfl⟩ | ⟨_, _, h⟩ := exec_hint he
    · exact ⟨[], (List.append_nil _).symm⟩
    · obtain ⟨_, rfl⟩ | ⟨_, _, n, es, _, rfl⟩ := hintStep_ok h
      · exact ⟨[], (List.append_nil _).symm⟩
      · exact ⟨_, rfl⟩
  | intctl | seed | enq | swapreq | start | pace | adv | illegal =>
    exact ⟨[], (exec_trace_of_command (c := s.cfg) he (by rfl) (by simp)).trans (List.append_nil _).symm⟩
  | outLenl | outLenh | outAddrl | outAddrm | outAddrh | outTrigger | outCramcmd | outDispOff | outDispOn | outColor2 =>
    obtain ⟨e, rfl⟩ := exec_outputRow_next (by rfl) he
    exact ⟨[e], rfl⟩

/-- R25: an instruction never clears SEEDED or STARTED. -/
theorem exec_keeps_flags {i : Instr} {s t : State} (he : exec i s = .next t) :
    (s.seeded = true → t.seeded = true) ∧ (s.started = true → t.started = true) := by
  constructor
  · intro h
    by_cases hi : i = .seed
    · subst hi
      obtain ⟨_, rfl⟩ | ⟨_, _, rfl⟩ | ⟨_, _, rfl⟩ := exec_seed he
      · exact h
      · rfl
      · exact h
    · obtain ⟨_, _, hseeded⟩ := exec_seed_writes he hi
      exact hseeded.trans h
  · intro h
    by_cases hi : ∃ k, i = .start k
    · obtain ⟨k, rfl⟩ := hi
      obtain ⟨_, rfl⟩ | ⟨_, rfl⟩ := exec_start he
      · exact h
      · rfl
    · obtain ⟨_, _, hstarted⟩ := exec_start_writes he fun k hk => hi ⟨k, hk⟩
      exact hstarted.trans h

/-! ## What one input can do -/

/-- A host write runs the command of a good write to CMD, sets an argument register, or records Err(7). -/
theorem hostWrite_next {offset : Byte} {width : AccessWidth} {value : Word} {s t : State}
    (h : hostWrite offset width value s = .next t) :
    (offset = 0x00#8 ∧ width = .bits32 ∧ exec (decodeCommand value) s = .next t)
      ∨ (∃ a b c, t = { s with arg0 := a, arg1 := b, arg2 := c }) ∨ t = raiseError .badacc s := by
  rw [hostWrite] at h
  split at h
  · next hgood =>
    split at h
    · next hcmd => exact .inl ⟨hcmd, ((goodAccess_iff _ _).mp hgood).1, h⟩
    split at h
    · cases h; exact .inr (.inl ⟨_, _, _, rfl⟩)
    split at h
    · cases h; exact .inr (.inl ⟨_, _, _, rfl⟩)
    split at h
    · cases h; exact .inr (.inl ⟨_, _, _, rfl⟩)
    · cases h; exact .inr (.inr rfl)
  · cases h; exact .inr (.inr rfl)

/-- The instruction an input runs, if it runs one. -/
def instrOfInput : Input → Option Instr
  | .hostWrite offset width value =>
    if offset = 0x00#8 ∧ width = .bits32 then some (decodeCommand value) else none
  | .vint | .vintWithHint => some .vint
  | .hint => some .hint
  | .hostRead _ _ | .reset | .hostStore _ _ => none

/-- What an input other than reset can do: run its instruction, perhaps with a HINT left to come; record Err(7) and
answer a read; or set argument registers, host memory, the races or the list of reads. -/
theorem takeInput_cases {i : Input} {s t : State} (hi : i ≠ .reset) (h : takeInput i s = .next t) :
    (∃ j is, instrOfInput i = some j ∧ exec j { s with inputs := is } = .next t)
      ∨ (∃ reads, t = { raiseError .badacc s with hostReads := reads })
      ∨ ∃ a b c mem races reads, t = { s with
          arg0 := a, arg1 := b, arg2 := c, mem := mem, races := races, hostReads := reads } := by
  cases i with
  | hostWrite offset width value =>
    obtain ⟨hoffset, hwidth, he⟩ | ⟨a, b, c, rfl⟩ | rfl := hostWrite_next h
    · exact .inl ⟨_, s.inputs, if_pos ⟨hoffset, hwidth⟩, he⟩
    · exact .inr (.inr ⟨a, b, c, _, _, _, rfl⟩)
    · exact .inr (.inl ⟨_, rfl⟩)
  | hostRead offset width =>
    cases h
    obtain ⟨v, h⟩ | h := hostRead_cases offset width s
    · exact .inr (.inr ⟨_, _, _, _, _, _, h⟩)
    · exact .inr (.inl ⟨_, h⟩)
  | vint => exact .inl ⟨.vint, s.inputs, rfl, h⟩
  | hint => exact .inl ⟨.hint, s.inputs, rfl, h⟩
  | vintWithHint => exact .inl ⟨.vint, _, rfl, h⟩
  | reset => exact absurd rfl hi
  | hostStore address value =>
    cases h
    obtain ⟨_, h⟩ | ⟨_, h⟩ := hostStore_cases address value s
    · exact .inr (.inl ⟨_, h⟩)
    · exact .inr (.inr ⟨_, _, _, _, _, _, h⟩)

/-- With nothing placed, a step that answers a next state took the head of the inputs. -/
theorem step_input {s t : State} {i : Input} {rest : List Input} (hp : s.placedWord = none) (hi : s.inputs = i :: rest)
    (h : step s = .next t) : takeInput i { s with inputs := rest } = .next t := by
  obtain ⟨_, j, tail, hj, ht⟩ := step_next hp h
  cases hi.symm.trans hj
  exact ht

/-- R41 over one error: no recorded bit is cleared, and a recorded first code stays. -/
theorem raiseError_keeps (e : ErrorCode) (s : State) :
    (∀ b, s.errmask.getLsbD b = true → (raiseError e s).errmask.getLsbD b = true)
      ∧ (s.firsterr ≠ 0#8 → (raiseError e s).firsterr = s.firsterr) := by
  refine ⟨fun b hb => ?_, fun h => ?_⟩
  · rw [raiseError_errmask, BitVec.getLsbD_or, hb, Bool.true_or]
  · rw [raiseError_firsterr, if_neg h]

/-! ## The statements -/

/-- Settles O45: by the writers of the cycler and of RSEL; SEED with GIE = 1 only raises Err(4). -/
theorem onlySeedAndServicesMoveThePointer : Obligations.OnlySeedAndServicesMoveThePointer := by
  intro i s t he
  refine ⟨fun hseed hvint hhint => ?_, fun hseed hgie => ?_, fun hhint => ?_⟩
  · obtain ⟨_, hstrip, hptr, htoggle, _⟩ := exec_cycler he hseed hvint hhint
    exact ⟨hptr, hstrip, htoggle, exec_rsel he hseed hvint⟩
  · subst hseed
    obtain ⟨_, rfl⟩ | ⟨hoff, _⟩ | ⟨hoff, _⟩ := exec_seed he
    · exact ⟨rfl, rfl, rfl, rfl⟩
    · rw [hgie] at hoff; cases hoff
    · rw [hgie] at hoff; cases hoff
  · exact exec_rsel he (by simp [hhint]) (by simp [hhint])

/-- Settles O48: VINT counts on both its branches, and the rest by the writers of TICK. -/
theorem tickCountsVintPulses : Obligations.TickCountsVintPulses := by
  intro i s t he
  refine ⟨fun hi => ?_, fun k hi hgie => ?_, fun hvint hstart => ?_⟩
  · subst hi
    have hcount : t.tick = s.tick + 1 := by
      obtain ⟨_, rfl⟩ | ⟨_, _, h⟩ := exec_vint he
      · rfl
      · obtain ⟨n, es, _, rfl⟩ := vint_enabled_frame h
        rfl
    rw [hcount, BitVec.toNat_add]
    rfl
  · subst hi
    obtain ⟨hon, _⟩ | ⟨_, rfl⟩ := exec_start he
    · rw [hgie] at hon; cases hon
    · rfl
  · by_cases hk : ∃ k, i = .start k
    · obtain ⟨k, rfl⟩ := hk
      obtain ⟨_, rfl⟩ | ⟨hoff, _⟩ := exec_start he
      · rfl
      · exact absurd (hstart.resolve_left fun h => h k rfl) (by simp [hoff])
    · exact exec_tick he hvint fun k hi => hk ⟨k, hi⟩

/-- Settles O16: an instruction that changes the error record did nothing but raise one code. -/
theorem raisedErrorsHaveNoOtherEffect : Obligations.RaisedErrorsHaveNoOtherEffect := by
  intro i s t he hchanged
  obtain ⟨e, rfl⟩ | ⟨hmask, hfirst⟩ := exec_errors he
  · exact ⟨errorNumber e, (errorNumber_bounds e).1, (errorNumber_bounds e).2, raiseError_recordsError e s⟩
  · exact absurd hchanged (by simp [hmask, hfirst])

/-- Settles O17: the illegal word is not looked at. -/
theorem illegalWordRaisesErrorOne : Obligations.IllegalWordRaisesErrorOne :=
  fun _ s => ⟨raiseError .illegal s, rfl, raiseError_recordsError .illegal s⟩

/-- Settles O15: each of the three inputs runs a service. -/
theorem servicesRaiseNoError : Obligations.ServicesRaiseNoError := by
  intro s t rest hp hinput h
  have service {j : Instr} {is : List Input} (hj : j = .vint ∨ j = .hint)
      (he : exec j { s with inputs := is } = .next t) : t.errmask = s.errmask ∧ t.firsterr = s.firsterr := by
    have hkept := exec_errors_kept he (.inr (.inr hj))
    exact hkept
  obtain hi | hi | hi := hinput
  · exact service (.inl rfl) (step_input hp hi h)
  · exact service (.inr rfl) (step_input hp hi h)
  · exact service (.inl rfl) (step_input hp hi h)

/-- Settles O14: each input runs an instruction, raises Err(7) or leaves the record. -/
theorem errorRecordLastsUntilReset : Obligations.ErrorRecordLastsUntilReset := by
  intro s t i rest hp hi hreset h
  obtain ⟨j, is, _, he⟩ | ⟨reads, rfl⟩ | ⟨_, _, _, _, _, _, rfl⟩ := takeInput_cases hreset (step_input hp hi h)
  · obtain ⟨e, rfl⟩ | ⟨hmask, hfirst⟩ := exec_errors he
    · exact raiseError_keeps e { s with inputs := is }
    · exact ⟨fun b hb => by rwa [hmask], fun _ => hfirst⟩
  · exact raiseError_keeps .badacc { s with inputs := rest }
  · exact ⟨fun _ hb => hb, fun _ => rfl⟩

/-- Settles O49: only SEED and START write the two flags, and they set them. -/
theorem seededAndStartedLastUntilReset : Obligations.SeededAndStartedLastUntilReset := by
  intro s t i rest hp hi hreset h
  obtain ⟨j, is, _, he⟩ | ⟨reads, rfl⟩ | ⟨_, _, _, _, _, _, rfl⟩ := takeInput_cases hreset (step_input hp hi h)
  · have hkeeps := exec_keeps_flags he
    exact hkeeps
  · exact ⟨id, id⟩
  · exact ⟨id, id⟩

/-- Settles O54: an input runs an instruction or leaves TRACE, and the only command that emits is FLUSH. -/
theorem traceGrowsOnlyByFlushAndServices : Obligations.TraceGrowsOnlyByFlushAndServices := by
  intro s t hp h
  obtain ⟨_, i, rest, hi, ht⟩ := step_next hp h
  by_cases hreset : i = .reset
  · subst hreset
    cases ht
    exact ⟨rfl, .reset, rest, hi, by simp, fun _ => rfl, by simp⟩
  · suffices hmain : t.placedWord = none ∧ (∃ es, t.trace = s.trace ++ es)
        ∧ (i ≠ .hostWrite 0x00#8 .bits32 0x04000000#32 → i ≠ .vint → i ≠ .hint → i ≠ .vintWithHint →
          t.trace = s.trace) by
      obtain ⟨hplaced, hgrows, hkept⟩ := hmain
      exact ⟨hplaced, i, rest, hi, fun _ => hgrows, fun h => absurd h hreset, fun hf hv hh hb _ => hkept hf hv hh hb⟩
    obtain ⟨j, is, hj, he⟩ | ⟨reads, rfl⟩ | ⟨_, _, _, _, _, _, rfl⟩ := takeInput_cases hreset ht
    · obtain ⟨_, _, _, hplaced, _⟩ := exec_frame he
      have hgrows := exec_appends he
      refine ⟨hplaced.trans hp, hgrows, fun hflush hvint hhint hboth => ?_⟩
      cases i with
      | hostWrite offset width value =>
        obtain ⟨⟨rfl, rfl⟩, hj⟩ := Option.ite_none_right_eq_some.mp hj
        cases hj
        have henc := encode_decodeCommand s.cfg value
        have hother : decodeCommand value ≠ .flush := fun hdecode => hflush (by rw [hdecode] at henc; cases henc; rfl)
        have hkept := exec_trace_of_command he henc hother
        exact hkept
      | hostRead | hostStore => cases hj
      | reset => exact absurd rfl hreset
      | vint => exact absurd rfl hvint
      | hint => exact absurd rfl hhint
      | vintWithHint => exact absurd rfl hboth
    · exact ⟨hp, ⟨[], (List.append_nil _).symm⟩, fun _ _ _ _ => rfl⟩
    · exact ⟨hp, ⟨[], (List.append_nil _).symm⟩, fun _ _ _ _ => rfl⟩

/-- STATUS after reset: only STRAT, which is 3, is not 0 (R230). -/
theorem statusValue_resetFse (s : State) : statusValue (resetFse s) = 0xC000 := by
  simp [statusValue, resetFse, State.reset]

/-- Settles O52: reset writes every element. -/
theorem resetRestoresEveryElement : Obligations.ResetRestoresEveryElement :=
  fun s rest hwf hp hi =>
    ⟨resetFse { s with inputs := rest }, step_takes hp hwf hi, statusValue_resetFse _, rfl⟩

/-- Settles O53, by the rules of stores and reads of host memory. -/
theorem hostStoreChangesOneByte : Obligations.HostStoreChangesOneByte := by
  intro s rest a b hwf hp hi hwindow
  have htake := step_takes hp hwf hi
  obtain ⟨hin, _⟩ | ⟨_, hstore⟩ := hostStore_cases a b { s with inputs := rest }
  · rw [hwindow] at hin
    cases hin
  · rw [takeInput, hstore] at htake
    exact ⟨_, htake, lookup_store_same _ _ _, fun x hx => lookup_store_other _ b hx, fun hm => store_wf b hm a.isLt,
      rfl⟩

/-- Settles O7: by the branches of `step` and the CMD case of a host write. -/
theorem stepRunsTheInstructionOfItsInput : Obligations.StepRunsTheInstructionOfItsInput := by
  intro s hwf
  refine ⟨fun rest hp => ⟨fun w hi => ?_, fun hi => ?_, fun hi => ?_⟩, fun e i hp hrow => ?_⟩
  · rw [step_takes hp hwf hi, takeInput, hostWrite_command]
  · rw [step_takes hp hwf hi, takeInput]
  · rw [step_takes hp hwf hi, takeInput]
  · rw [step_placed hwf hp]
    exact runPortWord_row hrow

/-- Settles O8: the VINT service leaves the HINT at the head of the inputs. -/
theorem presentedPulsesRunVintThenHint : Obligations.PresentedPulsesRunVintThenHint := by
  intro s rest hs hi
  obtain ⟨t, he⟩ := exec_vint_total (inv_inputs hs (.hint :: rest))
  obtain ⟨hcfg, _, hinputs, hplaced, _⟩ := exec_frame he
  refine ⟨t, (step_takes hs.placed hs.wf hi).trans he, he, ?_⟩
  exact step_takes (hplaced.trans hs.placed) (by rw [hcfg]; exact hs.wf) hinputs

end Sys2Proof.Proofs
end

section
/-! SUPPORT. What the palette cycler reads and emits: one word, one strip, the strips of a frame (R125, R123, R127), and
when the draw counter stands still (R64). -/

namespace Sys2Proof.Proofs

open Sys2Proof.Machine Sys2Proof.Spec Sys2Proof.Laws

/-! ## One word -/

/-- Every byte of an interval is one the spec promises. -/
def SettledFrom (s : State) (a n : Nat) : Prop :=
  ∀ b, b < n → Settled s (a + b)

/-- The settled bytes of a word read from host memory are the stored ones, the first in bits 31:24 (R62). -/
def CarriesBytes (s : State) (a : Nat) (w : Word) : Prop :=
  ∀ b, b < 4 → Settled s (a + b) → w.extractLsb' (24 - 8 * b) 8 = storedByte s (a + b)

theorem byte_of_word (b0 b1 b2 b3 : Byte) :
    (b0 ++ b1 ++ b2 ++ b3 : Word).extractLsb' 24 8 = b0 ∧ (b0 ++ b1 ++ b2 ++ b3 : Word).extractLsb' 16 8 = b1
      ∧ (b0 ++ b1 ++ b2 ++ b3 : Word).extractLsb' 8 8 = b2 ∧ (b0 ++ b1 ++ b2 ++ b3 : Word).extractLsb' 0 8 = b3 := by
  have hword : (b0 ++ b1 ++ b2 ++ b3 : Word).toNat
      = ((b0.toNat * 2 ^ 8 + b1.toNat) * 2 ^ 8 + b2.toNat) * 2 ^ 8 + b3.toNat := by
    rw [append_toNat, append_toNat, append_toNat]
  have h0 := b0.isLt
  have h1 := b1.isLt
  have h2 := b2.isLt
  have h3 := b3.isLt
  refine ⟨?_, ?_, ?_, ?_⟩ <;>
  · apply BitVec.eq_of_toNat_eq
    rw [BitVec.extractLsb'_toNat, hword, Nat.shiftRight_eq_div_pow]
    omega

theorem memRead_carriesBytes {a : Nat} {s s' : State} {w : Word} (h : memRead a s = .ok (w, s')) :
    CarriesBytes s a w := by
  obtain ⟨_, _, b0, b1, b2, b3, _, _, rfl, ⟨m0, h0⟩, ⟨m1, h1⟩, ⟨m2, h2⟩, ⟨m3, h3⟩⟩ := memRead_ok h
  obtain ⟨e0, e1, e2, e3⟩ := byte_of_word b0 b1 b2 b3
  have read {x m : Nat} (hx : Settled s x) : (readHostByte x { s with freeCtr := m }).1 = storedByte s x :=
    congrArg Prod.fst (readHostByte_settled (s := { s with freeCtr := m }) hx.1 hx.2)
  intro b hb hsettled
  obtain rfl | rfl | rfl | rfl : b = 0 ∨ b = 1 ∨ b = 2 ∨ b = 3 := by omega
  · exact e0.trans (h0.trans (read hsettled))
  · exact e1.trans (h1.trans (read hsettled))
  · exact e2.trans (h2.trans (read hsettled))
  · exact e3.trans (h3.trans (read hsettled))

theorem memRead_draws_none {a : Nat} {s s' : State} {w : Word} (hs : SettledFrom s a 4)
    (h : memRead a s = .ok (w, s')) : s' = s := by
  have hread := memRead_settled (memRead_ok h).1 (fun k hk => (hs k hk).1) (fun k hk => (hs k hk).2)
  rw [hread] at h
  cases h
  rfl

/-! ## One strip -/

theorem copyColors_words {ks : List Nat} {s s' : State} (h : copyColors ks s = .ok s') :
    ∃ (n : Nat) (ws : List Word), List.Forall₂ (fun k w => CarriesBytes s (s.hptr.toNat + 4 * k) w) ks ws
      ∧ ((∀ k ∈ ks, SettledFrom s (s.hptr.toNat + 4 * k) 4) → n = s.freeCtr)
      ∧ s' = { s with freeCtr := n, trace := s.trace ++ ws.map .data32 } := by
  induction ks generalizing s with
  | nil =>
    obtain rfl : s = s' := by injection h
    exact ⟨s.freeCtr, [], .nil, fun _ => rfl, by simp⟩
  | cons k ks ih =>
    rw [copyColors] at h
    split at h
    · cases h
    · next w t hr =>
      have hbytes := memRead_carriesBytes hr
      have hdraws := fun hs => memRead_draws_none hs hr
      obtain ⟨_, n, _, _, _, _, _, rfl, _⟩ := memRead_ok hr
      obtain ⟨m, ws, hwords, hsame, rfl⟩ := ih h
      refine ⟨m, w :: ws, .cons hbytes hwords, fun hs => ?_, by simp [emit]⟩
      have hrest : m = n := hsame fun j hj => hs j (List.mem_cons_of_mem _ hj)
      have hfirst : n = s.freeCtr := congrArg State.freeCtr (hdraws (hs k List.mem_cons_self))
      exact hrest.trans hfirst

/-- The four words of a CPU-path strip carry its sixteen bytes. -/
theorem byteOf_words {s : State} {a : Nat} {ws : List Word}
    (h : List.Forall₂ (fun k w => CarriesBytes s (a + 4 * k) w) [0, 1, 2, 3] ws) :
    ws.length = 4 ∧ ∀ j, j < 16 → Settled s (a + j) → byteOf ws j = storedByte s (a + j) := by
  refine ⟨h.length_eq.symm, fun j hj hsettled => ?_⟩
  have word (i : Nat) (hi : i < 4) : CarriesBytes s (a + 4 * i) (ws.getD i 0#32) := by
    obtain _ | ⟨h0, _ | ⟨h1, _ | ⟨h2, _ | ⟨h3, ⟨⟩⟩⟩⟩⟩ := h
    obtain rfl | rfl | rfl | rfl : i = 0 ∨ i = 1 ∨ i = 2 ∨ i = 3 := by omega
    · exact h0
    · exact h1
    · exact h2
    · exact h3
  have hsplit : a + 4 * (j / 4) + j % 4 = a + j := by omega
  have hbyte := word (j / 4) (by omega) (j % 4) (by omega)
  rw [hsplit] at hbyte
  exact hbyte hsettled

/-- The ops of a DMA-path strip are those of R125, with the words of R84 as sums. -/
theorem burstOps_events (c : Config) {hptr : Word} (hend : hptr.toNat + 15 ≤ 0xFFFFFF) (dst : Nat) (split : Split) :
    (burstOps c hptr dst (splitRanges split)).flatMap opEvents
      = (bursts split).flatMap fun r =>
          sixEvents (formatted (hptr.toNat + 2 * r.1) r.2 (cramCommandWord c (dst + 2 * r.1) true)) := by
  have hranges : ∀ r ∈ bursts split, r.1 ≤ 6 ∧ r.2 ≤ 8 := by
    cases split <;> decide
  have hsame : splitRanges split = bursts split := by cases split <;> rfl
  rw [hsame, burstOps, List.flatMap_map]
  refine List.flatMap_congr fun r hr => ?_
  obtain ⟨hoffset, hcount⟩ := hranges r hr
  rw [encodeOp_eq_formatted, toNat_add_ofNat (by omega), BitVec.toNat_ofNat, Nat.mod_eq_of_lt (by omega)]
  rfl

/-- The strip write of the CPU path: the command, then the colors (R125). -/
theorem stripWrite_cpu {s : State} (hpath : s.cfg.path = .cpu) :
    stripWrite s = (copyColors [0, 1, 2, 3]
      (emit (.ctrl32 (cramCommandWord s.cfg (pairAddress s.cfg s.toggle) false)) s)).map advanceStrip := by
  simp only [stripWrite, hpath]
  split <;> next h => rw [h]; rfl

/-- The strip write of the DMA path: the bursts (R125). -/
theorem stripWrite_dma {s : State} {split : Split} (hpath : s.cfg.path = .dma split) :
    stripWrite s = .ok (advanceStrip (emitBursts (pairAddress s.cfg s.toggle) (splitRanges split) s)) := by
  simp only [stripWrite, hpath]

theorem isStrip_cpu {s : State} {addr dst : Nat} {ws : List Word} (hpath : s.cfg.path = .cpu) (hlen : ws.length = 4)
    (hbytes : ∀ j, j < 16 → Settled s (addr + j) → byteOf ws j = storedByte s (addr + j)) :
    IsStrip s addr dst (.ctrl32 (cramCommandWord s.cfg dst false) :: ws.map .data32) := by
  rw [IsStrip, hpath]
  exact ⟨ws, hlen, rfl, hbytes⟩

theorem isStrip_dma {s : State} {split : Split} (addr dst : Nat) (hpath : s.cfg.path = .dma split) :
    IsStrip s addr dst ((bursts split).flatMap fun r =>
      sixEvents (formatted (addr + 2 * r.1) r.2 (cramCommandWord s.cfg (dst + 2 * r.1) true))) := by
  rw [IsStrip, hpath]

/-- What a strip write emits and reads (R125). -/
theorem stripWrite_isStrip {s s' : State} (hend : s.hptr.toNat + 15 ≤ 0xFFFFFF) (h : stripWrite s = .ok s') :
    ∃ (n : Nat) (es : List PortEvent), IsStrip s s.hptr.toNat (pairAddress s.cfg s.toggle) es
      ∧ (SettledFrom s s.hptr.toNat 16 → n = s.freeCtr)
      ∧ s' = advanceStrip { s with freeCtr := n, trace := s.trace ++ es } := by
  cases hpath : s.cfg.path with
  | cpu =>
    rw [stripWrite_cpu hpath] at h
    cases hcopy : copyColors [0, 1, 2, 3]
        (emit (.ctrl32 (cramCommandWord s.cfg (pairAddress s.cfg s.toggle) false)) s) with
    | error f => rw [hcopy] at h; cases h
    | ok t =>
      rw [hcopy] at h
      cases h
      obtain ⟨n, ws, hwords, hsame, rfl⟩ := copyColors_words hcopy
      obtain ⟨hlen, hbytes⟩ := byteOf_words hwords
      refine ⟨n, _, isStrip_cpu hpath hlen hbytes, fun hs => hsame fun k hk b hb => ?_, by simp [emit]⟩
      have hlast : k ≤ 3 := by
        revert k
        decide
      rw [Nat.add_assoc]
      exact hs (4 * k + b) (by omega)
  | dma split =>
    rw [stripWrite_dma hpath, emitBursts_eq, burstOps_events s.cfg hend] at h
    cases h
    exact ⟨s.freeCtr, _, isStrip_dma _ _ hpath, fun _ => rfl, rfl⟩

/-- A strip is the same in states with the same configuration, host memory and races. -/
theorem isStrip_congr {s t : State} (hcfg : t.cfg = s.cfg) (hmem : t.mem = s.mem) (hraces : t.races = s.races) :
    IsStrip t = IsStrip s := by
  funext addr dst es
  simp only [IsStrip, Settled, storedByte, hcfg, hmem, hraces]

/-! ## The first strips of a buffer -/

theorem pairAddress_odd (c : Config) (k : Nat) : pairAddress c (decide (k % 2 = 1)) = pairOf c k := by
  rw [pairAddress, pairOf]
  rcases Nat.mod_two_eq_zero_or_one k with h | h <;> simp [h]

/-- The last of several strip writes. -/
theorem stripWrites_succ {k : Nat} {s u : State} (h : stripWrites (k + 1) s = .ok u) :
    ∃ t, stripWrites k s = .ok t ∧ stripWrite t = .ok u := by
  induction k generalizing s with
  | zero =>
    rw [stripWrites] at h
    split at h
    · cases h
    · next t ht => exact ⟨s, rfl, by rw [ht]; exact h⟩
  | succ k ih =>
    rw [stripWrites] at h
    split at h
    · cases h
    · next t ht =>
      obtain ⟨v, hv, hu⟩ := ih h
      exact ⟨v, by rw [stripWrites, ht]; exact hv, hu⟩

/-- What a number of strip writes emit and read, from the start of a buffer (R123). -/
theorem stripWrites_areFirstStrips {k : Nat} {s s' : State} (htoggle : s.toggle = false)
    (hend : ∀ j, j < k → s.hptr.toNat + j * s.cfg.stripStride + 15 ≤ 0xFFFFFF) (h : stripWrites k s = .ok s') :
    ∃ es, AreFirstStrips s s.hptr.toNat k es ∧ s'.trace = s.trace ++ es
      ∧ ((∀ j, j < k → SettledFrom s (s.hptr.toNat + j * s.cfg.stripStride) 16) → s'.freeCtr = s.freeCtr) := by
  induction k generalizing s' with
  | zero =>
    obtain rfl : s = s' := by injection h
    exact ⟨[], rfl, (List.append_nil _).symm, fun _ => rfl⟩
  | succ k ih =>
    obtain ⟨t, ht, hlast⟩ := stripWrites_succ h
    obtain ⟨front, hfront, htrace, hsame⟩ := ih (fun j hj => hend j (by omega)) ht
    have hk := hend k (by omega)
    have hptr : t.hptr.toNat = s.hptr.toNat + k * s.cfg.stripStride := by
      obtain ⟨n, es, _, rfl⟩ := stripWrites_ok ht
      exact toNat_add_ofNat (by omega)
    have hpair : pairAddress t.cfg t.toggle = pairOf s.cfg k := by
      obtain ⟨n, es, _, rfl⟩ := stripWrites_ok ht
      rw [← pairAddress_odd, htoggle, Bool.false_xor]
    have hmemory : t.cfg = s.cfg ∧ t.mem = s.mem ∧ t.races = s.races := by
      obtain ⟨n, es, _, rfl⟩ := stripWrites_ok ht
      exact ⟨rfl, rfl, rfl⟩
    obtain ⟨hcfg, hmem, hraces⟩ := hmemory
    obtain ⟨n, es, hstrip, hdraws, rfl⟩ := stripWrite_isStrip (by omega) hlast
    rw [isStrip_congr hcfg hmem hraces, hptr, hpair] at hstrip
    refine ⟨front ++ es, ⟨front, es, rfl, hfront, hstrip⟩, ?_, fun hs => ?_⟩
    · simp [htrace]
    · refine (hdraws fun b hb => ?_).trans (hsame fun j hj => hs j (by omega))
      have := hs k (by omega) b hb
      simpa only [Settled, hcfg, hraces, hptr] using this

end Sys2Proof.Proofs
end

section
/-! SUPPORT. What the two services do, with the events they emit and the bytes they read (R202, R203, R123, R127). The
last part settles the statements about one VINT and one HINT. -/

namespace Sys2Proof.Proofs

open Sys2Proof.Machine Sys2Proof.Spec Sys2Proof.Laws

/-! ## The VINT service -/

theorem areFirstStrips_congr {s t : State} (hcfg : t.cfg = s.cfg) (hmem : t.mem = s.mem) (hraces : t.races = s.races)
    (base k : Nat) : AreFirstStrips t base k = AreFirstStrips s base k := by
  induction k with
  | zero => rfl
  | succ k ih =>
    funext es
    simp only [AreFirstStrips, ih, isStrip_congr hcfg hmem hraces, hcfg]

/-- The pre-loaded strips lie inside the Render buffer, with sixteen bytes of each. -/
theorem preloaded_strip_end {s : State} (hs : Inv s) (hseeded : s.seeded = true) {j : Nat} (hj : j < s.cfg.preload) :
    (nextRenderBase s).toNat + j * s.cfg.stripStride + 16 ≤ 2 ^ 24 := by
  have hend := inv_nextRender_end hs hseeded
  have hstrip := strip_in_buffer hs.wf (hj.trans_le (wf_preload hs.wf))
  omega

/-- An enabled VINT service, with its events and its reads (R202, R123). -/
theorem vint_firstStrips {s t : State} (hs : Inv s) (hgie : s.gie = true) (hvie : s.vie = true)
    (he : exec .vint s = .next t) :
    ∃ (n : Nat) (es : List PortEvent), AreFirstStrips s (nextRenderBase s).toNat s.cfg.preload es
      ∧ ((∀ j, j < s.cfg.preload → SettledFrom s ((nextRenderBase s).toNat + j * s.cfg.stripStride) 16) →
        n = s.freeCtr)
      ∧ t = { s with
          tick := s.tick + 1, rsel := if s.swapPending then !s.rsel else s.rsel, swapPending := false
          freeCtr := n, trace := s.trace ++ es, hline := s.cfg.lineOffset, hstate := .idle
          hstrip := BitVec.ofNat 8 s.cfg.preload
          hptr := nextRenderBase s + BitVec.ofNat 32 (s.cfg.preload * s.cfg.stripStride)
          toggle := decide (s.cfg.preload % 2 = 1) } := by
  have hseeded := inv_seeded_of_enabled hs hgie (.inl hvie)
  rw [exec_vint_enabled hgie hvie] at he
  have hwrites := outcomeOf_next he
  obtain ⟨es, hstrips, htrace, hsame⟩ := stripWrites_areFirstStrips (by rfl) (fun j hj => by
    have := preloaded_strip_end hs hseeded hj
    show (nextRenderBase s).toNat + j * s.cfg.stripStride + 15 ≤ _
    omega) hwrites
  rw [← renderBase_swapped] at hwrites
  obtain ⟨n, fs, _, rfl⟩ := vint_enabled_frame hwrites
  obtain rfl : fs = es := List.append_cancel_left htrace
  rw [areFirstStrips_congr (s := s) (t := rewindStrips (nextRenderBase s) (swapped s)) rfl rfl rfl] at hstrips
  exact ⟨n, fs, hstrips, hsame, rfl⟩

/-! ## The HINT service -/

/-- The counter value of the next HINT (R28, R127). -/
theorem nextLine_toNat (s : State) :
    (s.hline + BitVec.ofNat 16 s.cfg.stripHeight).toNat = (s.hline.toNat + s.cfg.stripHeight) % 65536 := by
  rw [BitVec.toNat_add, BitVec.toNat_ofNat, Nat.add_mod_mod]

theorem inWindow_iff (c : Config) (h : Half) :
    inWindow c h = true ↔ (c.windowOf c.std).first.toNat ≤ h.toNat ∧ h.toNat ≤ (c.windowOf c.std).last.toNat := by
  simp only [inWindow, Bool.and_eq_true, decide_eq_true_eq, BitVec.le_def]

/-- Adding a number to a register wraps at its width. -/
theorem add_ofNat {n : Nat} (x : BitVec n) (k : Nat) : x + BitVec.ofNat n k = BitVec.ofNat n (x.toNat + k) := by
  rw [BitVec.ofNat_add, BitVec.ofNat_toNat, BitVec.setWidth_eq]

/-- R127 inside the window, with a strip left that lies inside host memory. -/
theorem hintStep_writes {s : State} (hin : inWindow s.cfg (s.hline + BitVec.ofNat 16 s.cfg.stripHeight) = true)
    (hleft : s.hstrip.toNat < s.cfg.numStrips) (hend : s.hptr.toNat + 15 ≤ 0xFFFFFF) :
    ∃ (n : Nat) (es : List PortEvent), IsStrip s s.hptr.toNat (pairAddress s.cfg s.toggle) es
      ∧ (SettledFrom s s.hptr.toNat 16 → n = s.freeCtr)
      ∧ hintStep s = .ok { s with
          hline := s.hline + BitVec.ofNat 16 s.cfg.stripHeight, hstate := .armed, freeCtr := n
          trace := s.trace ++ (.ctrl16 s.cfg.dispOff :: es ++ [.ctrl16 s.cfg.dispOn])
          hstrip := s.hstrip + 1, hptr := s.hptr + BitVec.ofNat 32 s.cfg.stripStride, toggle := !s.toggle } := by
  obtain ⟨u, hu⟩ := stripWrite_total (emit (.ctrl16 s.cfg.dispOff)
    { s with hline := s.hline + BitVec.ofNat 16 s.cfg.stripHeight, hstate := .swapping }) hend
  obtain ⟨n, es, hstrip, hsame, rfl⟩ := stripWrite_isStrip (by exact hend) hu
  refine ⟨n, es, hstrip, hsame, ?_⟩
  rw [hintStep_writing hin hleft, hu]
  simp [Except.map, advanceStrip, emit]

/-- An enabled HINT service from a state with the invariants, with its events and its reads (R127, R129, R130). -/
theorem hint_cases {s t : State} (hs : Inv s) (hgie : s.gie = true) (hhie : s.hie = true)
    (he : exec .hint s = .next t) :
    ((inWindow s.cfg (s.hline + BitVec.ofNat 16 s.cfg.stripHeight) = false ∨ s.cfg.numStrips ≤ s.hstrip.toNat)
        ∧ t = { s with hline := s.hline + BitVec.ofNat 16 s.cfg.stripHeight, hstate := .idle })
      ∨ (inWindow s.cfg (s.hline + BitVec.ofNat 16 s.cfg.stripHeight) = true ∧ s.hstrip.toNat < s.cfg.numStrips
        ∧ ∃ (n : Nat) (es : List PortEvent),
          IsStrip s ((renderBase s).toNat + s.hstrip.toNat * s.cfg.stripStride) (pairOf s.cfg s.hstrip.toNat) es
          ∧ (SettledFrom s ((renderBase s).toNat + s.hstrip.toNat * s.cfg.stripStride) 16 → n = s.freeCtr)
          ∧ t = { s with
              hline := s.hline + BitVec.ofNat 16 s.cfg.stripHeight, hstate := .armed, freeCtr := n
              trace := s.trace ++ (.ctrl16 s.cfg.dispOff :: es ++ [.ctrl16 s.cfg.dispOn])
              hstrip := s.hstrip + 1, hptr := s.hptr + BitVec.ofNat 32 s.cfg.stripStride, toggle := !s.toggle }) := by
  rw [exec_hint_enabled hgie hhie] at he
  by_cases hrest : inWindow s.cfg (s.hline + BitVec.ofNat 16 s.cfg.stripHeight) = false
      ∨ s.cfg.numStrips ≤ s.hstrip.toNat
  · rw [hintStep_rests hrest] at he
    cases he
    exact .inl ⟨hrest, rfl⟩
  · simp only [not_or, Bool.not_eq_false, not_le] at hrest
    obtain ⟨hin, hleft⟩ := hrest
    have hseeded := inv_seeded_of_enabled hs hgie (.inr hhie)
    have hend := inv_render_end hs hseeded
    have hstrip := inv_strip_end hs hseeded hleft
    obtain ⟨n, es, hstrip, hsame, hstep⟩ := hintStep_writes hin hleft (by omega)
    rw [hs.pointer hseeded] at hstrip hsame
    rw [hs.pair, lowBit_eq_odd, pairAddress_odd] at hstrip
    rw [hstep] at he
    cases he
    exact .inr ⟨hin, hleft, n, es, hstrip, hsame, rfl⟩

/-! ## The statements -/

/-- Settles O25: the service completes inside the invariants, and its strips are the first of the Render buffer. -/
theorem vintServiceBeginsTheFrame : Obligations.VintServiceBeginsTheFrame := by
  intro s hs hgie hvie
  obtain ⟨t, he⟩ := exec_vint_total hs
  obtain ⟨n, es, hstrips, _, rfl⟩ := vint_firstStrips hs hgie hvie he
  refine ⟨_, es, he, hstrips, preloaded_hptr_toNat hs (inv_seeded_of_enabled hs hgie (.inl hvie)), ?_⟩
  rw [← add_ofNat]
  rfl

/-- Settles O27: the sums of the statement are the wrapping additions of the registers. -/
theorem hintWritesOneStripInTheWindow : Obligations.HintWritesOneStripInTheWindow := by
  intro s hgie hhie hfirst hlast hleft hend
  have hin : inWindow s.cfg (s.hline + BitVec.ofNat 16 s.cfg.stripHeight) = true :=
    (inWindow_iff _ _).mpr (by rw [nextLine_toNat]; exact ⟨hfirst, hlast⟩)
  obtain ⟨n, es, hstrip, _, hstep⟩ := hintStep_writes hin hleft hend
  refine ⟨_, es, (exec_hint_enabled hgie hhie).trans (congrArg outcomeOf hstep), hstrip, ?_⟩
  rw [← add_ofNat, ← add_ofNat, ← add_ofNat]
  rfl

/-- Settles O28: each of the three premises is a case in which the HINT step rests. -/
theorem hintOutsideTheWindowOnlyCounts : Obligations.HintOutsideTheWindowOnlyCounts := by
  intro s hgie hhie houtside
  have hrest : inWindow s.cfg (s.hline + BitVec.ofNat 16 s.cfg.stripHeight) = false
      ∨ s.cfg.numStrips ≤ s.hstrip.toNat := by
    rw [← Bool.not_eq_true, inWindow_iff, nextLine_toNat]
    omega
  rw [exec_hint_enabled hgie hhie, hintStep_rests hrest, add_ofNat]
  rfl

/-- Settles O26: the masked branch of each service. -/
theorem maskedPulsesAreOnlyCounted : Obligations.MaskedPulsesAreOnlyCounted := by
  refine fun s => ⟨fun hmasked => ?_, fun hmasked => ?_⟩
  · have hoff : (s.gie && s.vie) = false := Bool.and_eq_false_iff.mpr hmasked
    rw [exec, execVint]
    simp only [hoff, Bool.false_eq_true, if_false]
    rw [← add_ofNat]
    rfl
  · have hoff : (s.gie && s.hie) = false := Bool.and_eq_false_iff.mpr hmasked
    rw [exec, execHint, if_neg (by rw [hoff]; exact Bool.false_ne_true)]
    rfl

/-- Two strips in a row go to two pairs, which W7 keeps apart. -/
theorem pairOf_ne_succ {c : Config} (hc : c.wf = true) (k : Nat) : pairOf c k ≠ pairOf c (k + 1) := by
  obtain ⟨_, _, _, _, happart⟩ := wf_pairs hc
  rw [pairOf, pairOf]
  rcases Nat.mod_two_eq_zero_or_one k with h | h
  · rw [if_pos h, if_neg (by omega)]
    omega
  · rw [if_neg (by omega), if_pos (by omega)]
    omega

/-- Settles O29: TOGGLE is the parity of HSTRIP, and HPTR the address of strip HSTRIP, by the invariants. -/
theorem stripsAlternateBetweenThePairs : Obligations.StripsAlternateBetweenThePairs := by
  intro s t hs
  refine ⟨pairOf_ne_succ hs.wf, fun hgie hvie he => ?_, fun hgie hhie he hmoved => ?_⟩
  · obtain ⟨n, es, hstrips, _, rfl⟩ := vint_firstStrips hs hgie hvie he
    exact ⟨preload_toNat hs.wf, es, hstrips, rfl⟩
  · obtain ⟨_, rfl⟩ | ⟨_, hleft, n, es, hstrip, _, rfl⟩ := hint_cases hs hgie hhie he
    · exact absurd rfl hmoved
    · exact ⟨succ_hstrip_toNat hs hleft, es, hstrip, rfl⟩

/-- Settles O42: SWAPREQ is the same asked once or twice, and the first VINT clears what the second would act on. -/
theorem pendingSwapIsMadeOnceByVint : Obligations.PendingSwapIsMadeOnceByVint := by
  intro s hs hgie hvie
  have hs1 := inv_swapreq hs rfl
  obtain ⟨s2, he2⟩ := exec_vint_total hs1
  have hs2 := inv_vint hs1 he2
  obtain ⟨s3, he3⟩ := exec_vint_total hs2
  obtain ⟨n2, es2, _, _, h2⟩ := vint_firstStrips hs1 hgie hvie he2
  obtain ⟨n3, es3, _, _, h3⟩ := vint_firstStrips hs2 (by rw [h2]; exact hgie) (by rw [h2]; exact hvie) he3
  have hbases : renderBase s2 = unpackBase s ∧ unpackBase s2 = renderBase s := by
    rw [h2]
    cases hr : s.rsel <;> simp [renderBase, unpackBase, hr]
  have hkept : renderBase s3 = renderBase s2 := by
    rw [h3, h2]
    rfl
  exact ⟨_, s2, s3, rfl, rfl, rfl, he2, hbases.1, hbases.2, by rw [h2], he3, hkept⟩

end Sys2Proof.Proofs
end

section
/-! SUPPORT. The counter values of a frame (W5, R129) and the invariant of a frame whose HINTs are all serviced. The
last part settles the statement that every strip is written once. -/

namespace Sys2Proof.Proofs

open Sys2Proof.Machine Sys2Proof.Spec Sys2Proof.Laws

/-! ## The counter values in the window -/

theorem lineInWindow_iff (c : Config) (j : Nat) :
    lineInWindow c j = true ↔
      (c.windowOf c.std).first.toNat ≤ c.lineOffset.toNat + j * c.stripHeight
        ∧ c.lineOffset.toNat + j * c.stripHeight ≤ (c.windowOf c.std).last.toNat := by
  simp only [lineInWindow, Bool.and_eq_true, decide_eq_true_eq]

/-- A counter value in the window is below 2^16, so the counter has not wrapped (W5). -/
theorem line_lt_of_inWindow {c : Config} {j : Nat} (h : lineInWindow c j = true) :
    c.lineOffset.toNat + j * c.stripHeight < 65536 :=
  ((lineInWindow_iff c j).mp h).2.trans_lt (c.windowOf c.std).last.isLt

theorem le_lineSteps_of_inWindow {c : Config} (hc : c.wf = true) {j : Nat} (h : lineInWindow c j = true) :
    j ≤ c.lineSteps := by
  have := line_lt_of_inWindow h
  rw [Config.lineSteps, Nat.le_div_iff_mul_le (wf_ranges hc).2.2.2.2.2.1.1]
  omega

/-- The counter values in the window, by their numbers. -/
theorem windowCount_eq_card (c : Config) (k : Nat) :
    windowCount c k = ((Finset.Icc 1 k).filter fun j => lineInWindow c j = true).card := by
  rw [Finset.card_filter]
  induction k with
  | zero => rfl
  | succ k ih => rw [windowCount, ih, Finset.sum_Icc_succ_top (by omega)]

/-- W5 asks for as many counter values in the window as there are strips to write after the pre-loaded ones. -/
theorem card_inWindow {c : Config} (hc : c.wf = true) :
    ((Finset.Icc 1 c.lineSteps).filter fun j => lineInWindow c j = true).card = c.numStrips - c.preload := by
  rw [← (wf_window hc c.std).2, windowOpportunities_eq_count c c.std (wf_ranges hc).2.2.2.2.2.1.1]
  simp only [lineInWindow_iff]

theorem windowCount_le {c : Config} (hc : c.wf = true) (k : Nat) : windowCount c k ≤ c.numStrips - c.preload := by
  rw [windowCount_eq_card, ← card_inWindow hc]
  refine Finset.card_le_card fun j hj => ?_
  simp only [Finset.mem_filter, Finset.mem_Icc] at hj ⊢
  exact ⟨⟨hj.1.1, le_lineSteps_of_inWindow hc hj.2⟩, hj.2⟩

/-- R129: once the window has been passed, every strip after the pre-loaded ones has been written. -/
theorem windowCount_of_passed {c : Config} (hc : c.wf = true) {k : Nat} (hk : WindowPassed c k) :
    windowCount c k = c.numStrips - c.preload := by
  refine le_antisymm (windowCount_le hc k) ?_
  rw [windowCount_eq_card, ← card_inWindow hc]
  refine Finset.card_le_card fun j hj => ?_
  simp only [Finset.mem_filter, Finset.mem_Icc] at hj ⊢
  exact ⟨⟨hj.1.1, hk j hj.1.1 hj.2⟩, hj.2⟩

/-- The next HINT writes a strip exactly when its counter value lies in the window: a wrapped counter may come back into
the window, but only after every strip has been written. -/
theorem writes_iff_lineInWindow {c : Config} (hc : c.wf = true) {k : Nat} {line : Half}
    (hline : line.toNat = (c.lineOffset.toNat + (k + 1) * c.stripHeight) % 65536) :
    (inWindow c line = true ∧ c.preload + windowCount c k < c.numStrips) ↔ lineInWindow c (k + 1) = true := by
  rw [inWindow_iff, hline]
  constructor
  · rintro ⟨hin, hleft⟩
    by_cases hwrap : c.lineOffset.toNat + (k + 1) * c.stripHeight < 65536
    · rw [Nat.mod_eq_of_lt hwrap] at hin
      exact (lineInWindow_iff c _).mpr hin
    · have hpassed : WindowPassed c k := fun j _ hj => by
        have := line_lt_of_inWindow hj
        by_contra hjk
        have : (k + 1) * c.stripHeight ≤ j * c.stripHeight := Nat.mul_le_mul_right _ (by omega)
        omega
      have := windowCount_of_passed hc hpassed
      omega
  · intro h
    have hcount := windowCount_le hc (k + 1)
    have := wf_preload hc
    rw [windowCount, if_pos h] at hcount
    rw [Nat.mod_eq_of_lt (line_lt_of_inWindow h)]
    exact ⟨(lineInWindow_iff c _).mp h, by omega⟩

/-! ## The invariant of a frame -/

/-- The state `t` after `k` serviced HINTs of the frame that a VINT began from `s`, with the frame's events `es`. -/
structure FrameAt (s : State) (k : Nat) (t : State) (es : List PortEvent) : Prop where
  inv : Inv t
  gie : t.gie = true
  hie : t.hie = true
  cfg : t.cfg = s.cfg
  mem : t.mem = s.mem
  races : t.races = s.races
  base : renderBase t = nextRenderBase s
  line : t.hline.toNat = (s.cfg.lineOffset.toNat + k * s.cfg.stripHeight) % 65536
  strips : t.hstrip.toNat = s.cfg.preload + windowCount s.cfg k
  trace : t.trace = s.trace ++ es
  events : AreFrameEvents s (nextRenderBase s).toNat k es

theorem frameAt_vint {s t : State} (hs : Inv s) (hgie : s.gie = true) (hvie : s.vie = true) (hhie : s.hie = true)
    (he : exec .vint s = .next t) : ∃ es, FrameAt s 0 t es := by
  have hinv := inv_vint hs he
  obtain ⟨n, es, hstrips, _, rfl⟩ := vint_firstStrips hs hgie hvie he
  have hline := s.cfg.lineOffset.isLt
  exact ⟨es, {
    inv := hinv, gie := hgie, hie := hhie, cfg := rfl, mem := rfl, races := rfl
    base := renderBase_swapped s
    line := by rw [Nat.zero_mul, Nat.add_zero, Nat.mod_eq_of_lt hline]
    strips := preload_toNat hs.wf
    trace := rfl
    events := hstrips }⟩

theorem frameAt_hint {s t : State} {k : Nat} {es : List PortEvent} (h : FrameAt s k t es) :
    ∃ u fs, exec .hint t = .next u ∧ FrameAt s (k + 1) u (es ++ fs) := by
  obtain ⟨u, he⟩ := exec_hint_total h.inv
  have hinv := inv_hint h.inv he
  have hnext : (t.hline + BitVec.ofNat 16 t.cfg.stripHeight).toNat
      = (s.cfg.lineOffset.toNat + (k + 1) * s.cfg.stripHeight) % 65536 := by
    rw [nextLine_toNat, h.line, h.cfg, Nat.mod_add_mod, Nat.add_assoc, Nat.succ_mul]
  have hwrites : (inWindow t.cfg (t.hline + BitVec.ofNat 16 t.cfg.stripHeight) = true
      ∧ t.hstrip.toNat < t.cfg.numStrips) ↔ lineInWindow s.cfg (k + 1) = true := by
    rw [h.cfg] at hnext ⊢
    rw [h.strips]
    exact writes_iff_lineInWindow (h.cfg ▸ h.inv.wf) hnext
  obtain ⟨hrest, rfl⟩ | ⟨hin, hleft, n, strip, hstrip, _, rfl⟩ := hint_cases h.inv h.gie h.hie he
  · have hout : lineInWindow s.cfg (k + 1) = false := by
      rw [← Bool.not_eq_true, ← hwrites]
      rintro ⟨hin, hleft⟩
      exact hrest.elim (by simp [hin]) (by omega)
    exact ⟨_, [], he, { h with
      inv := hinv
      line := hnext
      strips := by rw [windowCount, hout]; exact h.strips
      trace := by rw [List.append_nil]; exact h.trace
      events := ⟨es, [], rfl, h.events, fun _ => rfl, fun hin => Bool.noConfusion (hout.symm.trans hin)⟩ }⟩
  · have hin : lineInWindow s.cfg (k + 1) = true := hwrites.mp ⟨hin, hleft⟩
    have hcount := succ_hstrip_toNat h.inv hleft
    rw [isStrip_congr h.cfg h.mem h.races, h.base, h.cfg, h.strips] at hstrip
    have htrace : t.trace ++ (.ctrl16 t.cfg.dispOff :: strip ++ [.ctrl16 t.cfg.dispOn])
        = s.trace ++ (es ++ (.ctrl16 s.cfg.dispOff :: strip ++ [.ctrl16 s.cfg.dispOn])) := by
      rw [h.trace, h.cfg, List.append_assoc]
    have hevents : AreFrameEvents s (nextRenderBase s).toNat (k + 1)
        (es ++ (.ctrl16 s.cfg.dispOff :: strip ++ [.ctrl16 s.cfg.dispOn])) :=
      ⟨es, _, rfl, h.events, fun hout => Bool.noConfusion (hin.symm.trans hout), fun _ => ⟨strip, rfl, hstrip⟩⟩
    exact ⟨_, _, he, { h with
      inv := hinv
      line := hnext
      strips := by rw [windowCount, hin, if_pos rfl, ← Nat.add_assoc, ← h.strips]; exact hcount
      trace := htrace
      events := hevents }⟩

/-- One more HINT after a number of them. -/
theorem hints_succ {k : Nat} {s t u : State} (h : hints k s = some t) (he : exec .hint t = .next u) :
    hints (k + 1) s = some u := by
  induction k generalizing s with
  | zero =>
    cases h
    rw [hints, he]
    rfl
  | succ k ih =>
    rw [hints] at h ⊢
    split at h
    · next v hv => exact ih h
    · cases h

theorem frameAt_hints {s s0 : State} {es : List PortEvent} (h : FrameAt s 0 s0 es) (k : Nat) :
    ∃ t fs, hints k s0 = some t ∧ FrameAt s k t fs := by
  induction k with
  | zero => exact ⟨s0, es, rfl, h⟩
  | succ k ih =>
    obtain ⟨t, fs, hrun, hframe⟩ := ih
    obtain ⟨u, gs, he, hnext⟩ := frameAt_hint hframe
    exact ⟨u, fs ++ gs, hints_succ hrun he, hnext⟩

/-! ## The statement -/

/-- Settles O30: the frame invariant holds after the VINT and each HINT keeps it; W5 counts the HINTs that write. -/
theorem everyStripIsWrittenOncePerFrame : Obligations.EveryStripIsWrittenOncePerFrame := by
  intro s s0 hs hgie hvie hhie he
  refine ⟨fun std => (wf_window hs.wf std).1, fun k => ?_⟩
  obtain ⟨es, hzero⟩ := frameAt_vint hs hgie hvie hhie he
  obtain ⟨t, fs, hrun, h⟩ := frameAt_hints hzero k
  refine ⟨t, fs, hrun, h.line, h.trace, h.events, h.strips, fun hpassed => ?_⟩
  have hcount := windowCount_of_passed hs.wf hpassed
  have := wf_preload hs.wf
  exact ⟨hcount, by rw [h.strips, hcount]; omega⟩

end Sys2Proof.Proofs
end

section
/-! SUPPORT. A service under another host memory that agrees on the bytes it reads (R131), and a host that keeps the
buffer-swap discipline (R173, R240). The last part settles the two statements. -/

namespace Sys2Proof.Proofs

open Sys2Proof.Machine Sys2Proof.Spec Sys2Proof.Laws

/-! ## Another host memory -/

/-- The state with another host memory and other races. -/
def withHostMemory (m : Memory) (r : List Nat) (s : State) : State :=
  { s with mem := m, races := r }

/-- The other memory agrees with the state's on one byte, its races included. -/
def SameByte (m : Memory) (r : List Nat) (s : State) (a : Nat) : Prop :=
  m.lookup a = s.mem.lookup a ∧ (a ∈ r ↔ a ∈ s.races)

section HostMemory

variable {m : Memory} {r : List Nat} {s t : State}

theorem readHostByte_withHostMemory {a : Nat} (h : SameByte m r s a) :
    readHostByte a (withHostMemory m r s) = ((readHostByte a s).1, withHostMemory m r (readHostByte a s).2) := by
  obtain ⟨hbyte, hrace⟩ := h
  have hcontains : r.contains a = s.races.contains a := by
    rw [Bool.eq_iff_iff, List.contains_iff_mem, List.contains_iff_mem, hrace]
  simp only [readHostByte, withHostMemory, hcontains, hbyte]
  split <;> rfl

theorem memRead_withHostMemory {a : Nat} {w : Word} (hsame : ∀ b, b < 4 → SameByte m r s (a + b))
    (h : memRead a s = .ok (w, t)) : memRead a (withHostMemory m r s) = .ok (w, withHostMemory m r t) := by
  have hend := (memRead_ok h).1
  rw [memRead, if_neg (by omega)] at h ⊢
  obtain ⟨n0, _, e0⟩ := readHostByte_frame a s
  obtain ⟨n1, _, e1⟩ := readHostByte_frame (a + 1) { s with freeCtr := n0 }
  obtain ⟨n2, _, e2⟩ := readHostByte_frame (a + 2) { s with freeCtr := n1 }
  obtain ⟨n3, _, e3⟩ := readHostByte_frame (a + 3) { s with freeCtr := n2 }
  have read (b n : Nat) (hb : b < 4) :=
    readHostByte_withHostMemory (s := { s with freeCtr := n }) (a := a + b) (hsame b hb)
  have read0 := readHostByte_withHostMemory (hsame 0 (by decide))
  simp only [e0, e1, e2, e3, Except.ok.injEq, Prod.mk.injEq] at h
  obtain ⟨rfl, rfl⟩ := h
  simp only [Nat.add_zero] at read0
  simp only [read0, read 1 n0 (by decide), read 2 n1 (by decide), read 3 n2 (by decide), e0, e1, e2, e3]

theorem copyColors_withHostMemory {ks : List Nat}
    (hsame : ∀ k ∈ ks, ∀ b, b < 4 → SameByte m r s (s.hptr.toNat + 4 * k + b)) (h : copyColors ks s = .ok t) :
    copyColors ks (withHostMemory m r s) = .ok (withHostMemory m r t) := by
  induction ks generalizing s with
  | nil =>
    cases h
    rfl
  | cons k ks ih =>
    rw [copyColors] at h
    split at h
    · cases h
    · next w u hr =>
      have hread := memRead_withHostMemory (hsame k List.mem_cons_self) hr
      obtain ⟨_, n, _, _, _, _, _, rfl, _⟩ := memRead_ok hr
      have hrest := ih (by exact fun j hj => hsame j (List.mem_cons_of_mem _ hj)) h
      rw [copyColors]
      simp only [withHostMemory] at hread hrest ⊢
      rw [hread]
      exact hrest

/-- A strip write reads the sixteen bytes from HPTR at most (R125). -/
theorem stripWrite_withHostMemory (hsame : ∀ b, b < 16 → SameByte m r s (s.hptr.toNat + b))
    (h : stripWrite s = .ok t) : stripWrite (withHostMemory m r s) = .ok (withHostMemory m r t) := by
  cases hpath : s.cfg.path with
  | cpu =>
    rw [stripWrite_cpu hpath] at h
    rw [stripWrite_cpu (s := withHostMemory m r s) hpath]
    cases hcopy : copyColors [0, 1, 2, 3]
        (emit (.ctrl32 (cramCommandWord s.cfg (pairAddress s.cfg s.toggle) false)) s) with
    | error f => rw [hcopy] at h; cases h
    | ok u =>
      rw [hcopy] at h
      cases h
      have hother := copyColors_withHostMemory (m := m) (r := r) (fun k hk b hb => by
        have hlast : k ≤ 3 := by
          revert k
          decide
        rw [emit_hptr, Nat.add_assoc]
        exact hsame (4 * k + b) (by omega)) hcopy
      exact congrArg (Except.map advanceStrip) hother
  | dma split =>
    rw [stripWrite_dma hpath] at h
    rw [stripWrite_dma (s := withHostMemory m r s) hpath, emitBursts_eq]
    rw [emitBursts_eq] at h
    cases h
    rfl

/-- A number of strip writes reads sixteen bytes of each strip at most. -/
theorem stripWrites_withHostMemory {k : Nat} (hend : s.hptr.toNat + k * s.cfg.stripStride < 2 ^ 32)
    (hsame : ∀ j, j < k → ∀ b, b < 16 → SameByte m r s (s.hptr.toNat + j * s.cfg.stripStride + b))
    (h : stripWrites k s = .ok t) : stripWrites k (withHostMemory m r s) = .ok (withHostMemory m r t) := by
  induction k generalizing s with
  | zero =>
    cases h
    rfl
  | succ k ih =>
    rw [stripWrites] at h
    split at h
    · cases h
    · next u hu =>
      rw [Nat.succ_mul] at hend
      have hfirst := stripWrite_withHostMemory (by simpa using hsame 0 (by omega)) hu
      obtain ⟨n, es, _, rfl⟩ := stripWrite_ok hu
      have hptr : (s.hptr + BitVec.ofNat 32 s.cfg.stripStride).toNat = s.hptr.toNat + s.cfg.stripStride :=
        toNat_add_ofNat (by omega)
      have hrest := ih (s := advanceStrip { s with freeCtr := n, trace := s.trace ++ es })
        (by rw [advanceStrip_hptr, hptr]; simp only [advanceStrip_cfg]; omega)
        (fun j hj b hb => by
          have haddress : s.hptr.toNat + s.cfg.stripStride + j * s.cfg.stripStride + b
              = s.hptr.toNat + (j + 1) * s.cfg.stripStride + b := by
            rw [Nat.succ_mul]
            omega
          show SameByte m r s ((s.hptr + BitVec.ofNat 32 s.cfg.stripStride).toNat + j * s.cfg.stripStride + b)
          rw [hptr, haddress]
          exact hsame (j + 1) (by omega) b hb) h
      rw [stripWrites, hfirst]
      exact hrest

/-- The HINT step reads the sixteen bytes from HPTR at most, and only where a strip is left (R127). -/
theorem hintStep_withHostMemory
    (hsame : s.hstrip.toNat < s.cfg.numStrips → ∀ b, b < 16 → SameByte m r s (s.hptr.toNat + b))
    (h : hintStep s = .ok t) : hintStep (withHostMemory m r s) = .ok (withHostMemory m r t) := by
  by_cases hrest : inWindow s.cfg (s.hline + BitVec.ofNat 16 s.cfg.stripHeight) = false
      ∨ s.cfg.numStrips ≤ s.hstrip.toNat
  · rw [hintStep_rests hrest] at h
    cases h
    exact hintStep_rests (s := withHostMemory m r s) hrest
  · simp only [not_or, Bool.not_eq_false, not_le] at hrest
    obtain ⟨hin, hleft⟩ := hrest
    rw [hintStep_writing hin hleft] at h
    rw [hintStep_writing (s := withHostMemory m r s) hin hleft]
    cases hstrip : stripWrite (emit (.ctrl16 s.cfg.dispOff)
        { s with hline := s.hline + BitVec.ofNat 16 s.cfg.stripHeight, hstate := .swapping }) with
    | error f => rw [hstrip] at h; cases h
    | ok u =>
      rw [hstrip] at h
      cases h
      have hother := stripWrite_withHostMemory (m := m) (r := r) (by exact hsame hleft) hstrip
      exact congrArg (Except.map fun u => { emit (.ctrl16 s.cfg.dispOn) u with hstate := .armed }) hother

end HostMemory

/-- The bytes of a strip below P_NUM_STRIPS lie in its buffer. -/
theorem inBuffer_of_strip {c : Config} (hc : c.wf = true) (base : Word) {k b : Nat} (hk : k < c.numStrips)
    (hb : b < 16) : inBuffer c base (base.toNat + k * c.stripStride + b) = true := by
  have := strip_in_buffer hc hk
  simp only [inBuffer, Bool.and_eq_true, decide_eq_true_eq]
  omega

/-! ## A disciplined host -/

/-- Without races, every byte of a buffer that lies outside the register window is one the spec promises (R64, R236). -/
theorem settled_of_inBuffer {s : State} (hraces : s.races = []) (hwindow : s.buffersOutsideWindow)
    (hseeded : s.seeded = true) {base : Word} (hbase : base = s.bufA ∨ base = s.bufB) {a : Nat}
    (ha : inBuffer s.cfg base a = true) : Settled s a := by
  refine ⟨by rw [hraces]; exact List.not_mem_nil, Bool.eq_false_iff.mpr fun hin => ?_⟩
  obtain ⟨hA, hB⟩ := hwindow hseeded a hin
  obtain rfl | rfl := hbase
  · rw [hA] at ha; cases ha
  · rw [hB] at ha; cases ha

/-- Over one instruction, no race appears and no free byte is drawn. -/
theorem exec_draws_none {i : Instr} {s t : State} (hs : Inv s) (hraces : s.races = [])
    (hwindow : s.buffersOutsideWindow) (he : exec i s = .next t) : t.races = [] ∧ t.freeCtr = s.freeCtr := by
  have settled (hseeded : s.seeded = true) {base : Word} (hbase : base = s.bufA ∨ base = s.bufB) {k : Nat}
      (hk : k < s.cfg.numStrips) : SettledFrom s (base.toNat + k * s.cfg.stripStride) 16 := fun b hb =>
    settled_of_inBuffer hraces hwindow hseeded hbase (inBuffer_of_strip hs.wf base hk hb)
  by_cases hvint : i = .vint
  · subst hvint
    obtain ⟨_, rfl⟩ | ⟨hgie, hvie, _⟩ := exec_vint he
    · exact ⟨hraces, rfl⟩
    · obtain ⟨n, es, _, hsame, rfl⟩ := vint_firstStrips hs hgie hvie he
      have hseeded := inv_seeded_of_enabled hs hgie (.inl hvie)
      exact ⟨hraces, hsame fun j hj =>
        settled hseeded (nextRenderBase_cases s) (hj.trans_le (wf_preload hs.wf))⟩
  by_cases hhint : i = .hint
  · subst hhint
    obtain ⟨_, rfl⟩ | ⟨hgie, hhie, _⟩ := exec_hint he
    · exact ⟨hraces, rfl⟩
    · obtain ⟨_, rfl⟩ | ⟨_, hleft, n, es, _, hsame, rfl⟩ := hint_cases hs hgie hhie he
      · exact ⟨hraces, rfl⟩
      · have hbase := (renderBase_cases s).imp And.left And.left
        exact ⟨hraces, hsame (settled (inv_seeded_of_enabled hs hgie (.inr hhie)) hbase hleft)⟩
  refine ⟨?_, exec_freeCtr he hvint hhint⟩
  by_cases hseed : i = .seed
  · subst hseed
    obtain ⟨_, rfl⟩ | ⟨_, _, rfl⟩ | ⟨_, _, rfl⟩ := exec_seed he
    · exact hraces
    · rfl
    · exact hraces
  · exact (exec_races he hseed).trans hraces

/-! ## The statements -/

/-- Settles O46: a store within the discipline adds no race, and without races the services read settled bytes only. -/
theorem disciplinedHostNeverRaces : Obligations.DisciplinedHostNeverRaces := by
  intro s t hs hraces hwindow hobeys h
  obtain ⟨_, i, rest, hi, ht⟩ := step_next hs.placed h
  have run {j : Instr} {is : List Input} (he : exec j { s with inputs := is } = .next t) :
      t.races = [] ∧ t.freeCtr = s.freeCtr :=
    exec_draws_none (s := { s with inputs := is }) (inv_inputs hs is) hraces hwindow he
  cases i with
  | hostWrite offset width value =>
    obtain ⟨_, _, he⟩ | ⟨a, b, c, rfl⟩ | rfl := hostWrite_next ht
    · exact run he
    · exact ⟨hraces, rfl⟩
    · exact ⟨hraces, rfl⟩
  | hostRead offset width =>
    cases ht
    obtain ⟨v, h⟩ | h := hostRead_cases offset width { s with inputs := rest }
    · rw [h]; exact ⟨hraces, rfl⟩
    · rw [h]; exact ⟨hraces, rfl⟩
  | vint => exact run (j := .vint) ht
  | hint => exact run (j := .hint) ht
  | vintWithHint => exact run (j := .vint) ht
  | reset => cases ht; exact ⟨hraces, rfl⟩
  | hostStore address value =>
    cases ht
    have hobeyed : breaksSwapDiscipline { s with inputs := rest } address.toNat = false := hobeys address value rest hi
    obtain ⟨_, h⟩ | ⟨_, h⟩ := hostStore_cases address value { s with inputs := rest }
    · rw [h]; exact ⟨hraces, rfl⟩
    · rw [h, racesAfterStore, hobeyed]
      exact ⟨by simp [hraces], rfl⟩

/-- Settles O31: the strips a service reads lie in the Render buffer, where the two memories agree. -/
theorem servicesReadOnlyTheRenderBuffer : Obligations.ServicesReadOnlyTheRenderBuffer := by
  intro s t m r hs
  refine ⟨fun hgie hvie hsame he => ?_, fun hgie hhie hsame he => ?_⟩
  · have hseeded := inv_seeded_of_enabled hs hgie (.inl hvie)
    have hend := inv_nextRender_end hs hseeded
    have hstrips := strips_le_buffer (wf_preload hs.wf)
    rw [exec_vint_enabled hgie hvie] at he
    show exec .vint (withHostMemory m r s) = .next (withHostMemory m r t)
    rw [exec_vint_enabled (s := withHostMemory m r s) hgie hvie]
    refine congrArg outcomeOf (stripWrites_withHostMemory ?_ (fun j hj b hb => ?_) (outcomeOf_next he))
    · show (nextRenderBase s).toNat + s.cfg.preload * s.cfg.stripStride < _
      omega
    · exact hsame _ (inBuffer_of_strip hs.wf _ (hj.trans_le (wf_preload hs.wf)) hb)
  · have hseeded := inv_seeded_of_enabled hs hgie (.inr hhie)
    rw [exec_hint_enabled hgie hhie] at he
    show exec .hint (withHostMemory m r s) = .next (withHostMemory m r t)
    rw [exec_hint_enabled (s := withHostMemory m r s) hgie hhie]
    refine congrArg outcomeOf (hintStep_withHostMemory (fun hleft b hb => ?_) (outcomeOf_next he))
    rw [hs.pointer hseeded]
    exact hsame _ (inBuffer_of_strip hs.wf _ hleft hb)

end Sys2Proof.Proofs
end

section
/-! SUPPORT. The pacer's answers on supported ticks (R151, R156 to R159), the next index of the arbiter (R175), and the
refusals of the commands (R208). The last part settles the statements about SEED, START, PACE, ADV, SWAPREQ and
INTCTL. -/

namespace Sys2Proof.Proofs

open Sys2Proof.Machine Sys2Proof.Spec Sys2Proof.Laws

/-! ## The pacer -/

/-- R158: under every strategy, PACE of a supported tick answers exact division. -/
theorem pace_exact {s : State} (hs : Inv s) (hstarted : s.started = true) (hrange : s.arg0.toNat < s.cfg.maxTicks) :
    ∃ t, exec .pace s = .next t ∧ t.res.toNat = s.arg0.toNat * s.cfg.targetRate / s.cfg.refresh := by
  have hframe := exact_lt_numFrames hs.wf hrange
  have hframes := (wf_frames hs.wf).2.1
  have word {x : Nat} (h : x = s.arg0.toNat * s.cfg.targetRate / s.cfg.refresh) :
      (BitVec.ofNat 32 x).toNat = s.arg0.toNat * s.cfg.targetRate / s.cfg.refresh := by
    rw [h, BitVec.toNat_ofNat, Nat.mod_eq_of_lt (by omega)]
  cases hstrat : s.strat with
  | exact => exact ⟨_, exec_pace_supported hstarted hrange (paceByStrategy_exact _ hstrat), word rfl⟩
  | reciprocal =>
    refine ⟨_, exec_pace_supported hstarted hrange (paceByStrategy_reciprocal _ hstrat), word ?_⟩
    rw [← Nat.shiftRight_eq_div_pow, wf_reciprocal hs.wf hrange]
  | delta =>
    exact ⟨_, exec_pace_supported hstarted hrange (paceByStrategy_delta _ hstrat), word (deltaUpdate_exact hs hrange).1⟩
  | table =>
    exact ⟨_, exec_pace_supported hstarted hrange (paceByStrategy_table _ hstrat),
      word (hs.lut hstarted _ hrange)⟩

theorem pace_next_exact {s t : State} (hs : Inv s) (hstarted : s.started = true)
    (hrange : s.arg0.toNat < s.cfg.maxTicks) (he : exec .pace s = .next t) :
    t.res.toNat = s.arg0.toNat * s.cfg.targetRate / s.cfg.refresh := by
  obtain ⟨u, hu, hres⟩ := pace_exact hs hstarted hrange
  cases he.symm.trans hu
  exact hres

/-- R156: the last supported tick has the index of the last frame, since a frame lasts one tick at least (W1). -/
theorem exact_lastTick {c : Config} (hc : c.wf = true) :
    (c.maxTicks - 1) * c.targetRate / c.refresh = c.numFrames - 1 := by
  obtain ⟨hT, hTR⟩ := wf_rates hc
  have hR := wf_refresh_pos hc
  have hpos := maxTicks_pos hc
  have hlt := exact_lt_numFrames hc (t := c.maxTicks - 1) (by omega)
  have hceil : c.numFrames * c.refresh ≤ c.maxTicks * c.targetRate := by
    have hmod := Nat.div_add_mod (c.numFrames * c.refresh + c.targetRate - 1) c.targetRate
    have := Nat.mod_lt (c.numFrames * c.refresh + c.targetRate - 1) hT
    rw [Nat.mul_comm, ← Config.maxTicks] at hmod
    omega
  have hge : c.numFrames - 1 ≤ (c.maxTicks - 1) * c.targetRate / c.refresh := by
    rw [Nat.le_div_iff_mul_le hR, Nat.sub_mul, Nat.sub_mul]
    omega
  omega

/-- Settles O34: the invariants do not speak of STRAT. -/
theorem allStrategiesAgreeWithExactDivision : Obligations.AllStrategiesAgreeWithExactDivision :=
  fun s k hs hstarted hrange => pace_exact (s := { s with strat := k }) { hs with } hstarted hrange

/-- Settles O35: exact division never falls when the tick does not. -/
theorem paceIsMonotone : Obligations.PaceIsMonotone := by
  intro s1 s2 t1 t2 hs1 hs2 hcfg hstarted1 hstarted2 hle hrange he1 he2
  rw [pace_next_exact hs1 hstarted1 (hcfg ▸ hle.trans_lt hrange) he1, pace_next_exact hs2 hstarted2 hrange he2, hcfg]
  exact Nat.div_le_div_right (Nat.mul_le_mul_right _ hle)

/-- Settles O36: the exact index of a supported tick is below P_NUM_FRAMES, and one below at the last. -/
theorem lastSupportedTickAnswersTheLastFrame : Obligations.LastSupportedTickAnswersTheLastFrame := by
  intro s hs hstarted hrange
  obtain ⟨t, ht, hres⟩ := pace_exact hs hstarted hrange
  refine ⟨t, ht, ?_, fun hlast => ?_⟩
  · have := exact_lt_numFrames hs.wf hrange
    omega
  · rw [hres, hlast, exact_lastTick hs.wf]

theorem exec_start_off {s : State} (k : Strategy) (hgie : s.gie = false) :
    exec (.start k) s = .next { s with
      strat := k, tick := 0, lidx := 0, parity := false, done := false, pt := 0, pidx := 0, pa := 0
      lut := builtLut s.cfg, started := true } := by
  rw [exec, execStart, hgie]
  rfl

/-- Settles O32: the branch of START with GIE = 0. -/
theorem startBeginsPlayback : Obligations.StartBeginsPlayback := by
  intro k s hgie
  refine ⟨_, exec_start_off k hgie, rfl, ?_, fun n hn => lutEntry_built _ hn rfl⟩
  rw [builtLut, List.length_map, List.length_range]

/-- Settles O37: the checks of START and PACE, in the order of R208. -/
theorem startAndPaceRaiseTheirErrors : Obligations.StartAndPaceRaiseTheirErrors := by
  intro s
  refine ⟨fun k hgie => ⟨_, ?_, raiseError_recordsError .live s⟩,
    fun hstarted => ⟨_, ?_, raiseError_recordsError .seq s⟩,
    fun hstarted hrange => ⟨_, ?_, raiseError_recordsError .range s⟩⟩
  · rw [exec, execStart, if_pos hgie]
  · rw [exec, execPace, hstarted]
    rfl
  · rw [exec, execPace, if_neg (by simp [hstarted]), if_pos hrange]

/-! ## The arbiter -/

/-- The computation of R175 answers the index the rule describes. -/
theorem nextIndex_isNextIndex (c : Config) (cur raw : Nat) :
    IsNextIndex c.dropPolicy cur raw (nextIndex c cur raw) := by
  unfold IsNextIndex nextIndex
  cases c.dropPolicy with
  | step => rfl
  | drop =>
    simp only
    split
    · omega
    · omega

/-- ADV past its check: the next index is committed, or ends the video (R174, R176). -/
theorem exec_adv_playing {s : State} (hstarted : s.started = true) (hdone : s.done = false) :
    exec .adv s = .next (
      if s.cfg.numFrames ≤ nextIndex s.cfg s.lidx.toNat s.arg0.toNat then
        { s with res := BitVec.ofNat 32 (nextIndex s.cfg s.lidx.toNat s.arg0.toNat), done := true }
      else
        { s with
          res := BitVec.ofNat 32 (nextIndex s.cfg s.lidx.toNat s.arg0.toNat)
          lidx := BitVec.ofNat 16 (nextIndex s.cfg s.lidx.toNat s.arg0.toNat)
          parity := decide (nextIndex s.cfg s.lidx.toNat s.arg0.toNat % 2 = 1) }) := by
  rw [exec, execAdv, if_neg (by simp [hstarted, hdone]), apply_ite Host.Outcome.next]

theorem exec_adv_stopped {s : State} (h : s.started = false ∨ s.done = true) : OnlyRaises .adv 8 s := by
  refine ⟨raiseError .seq s, ?_, raiseError_recordsError .seq s⟩
  rw [exec, execAdv, if_pos (by simpa using h)]

/-- Settles O38: the next index of the model is the one R175 describes. -/
theorem advCommitsTheNextIndex : Obligations.AdvCommitsTheNextIndex :=
  fun s hstarted hdone => ⟨_, nextIndex_isNextIndex s.cfg s.lidx.toNat s.arg0.toNat, exec_adv_playing hstarted hdone⟩

/-- Settles O39: the next index is an odd distance above the old one, so their parities differ. -/
theorem committedFramesAlternateParity : Obligations.CommittedFramesAlternateParity := by
  refine ⟨fun s t hs hstarted hdone he hplaying => ?_, fun k s hgie => ⟨_, exec_start_off k hgie, rfl, rfl⟩⟩
  obtain ⟨hstopped, _⟩ | ⟨_, _, _, rfl⟩ | ⟨_, _, hlt, rfl⟩ := exec_adv he
  · simp [hstarted, hdone] at hstopped
  · cases hplaying
  · have hlast := (wf_frames hs.wf).2.1
    have hlidx : (BitVec.ofNat 16 (nextIndex s.cfg s.lidx.toNat s.arg0.toNat)).toNat
        = nextIndex s.cfg s.lidx.toNat s.arg0.toNat := by
      rw [BitVec.toNat_ofNat, Nat.mod_eq_of_lt (by omega)]
    have hnext := nextIndex_isNextIndex s.cfg s.lidx.toNat s.arg0.toNat
    have hodd : s.lidx.toNat < nextIndex s.cfg s.lidx.toNat s.arg0.toNat
        ∧ (nextIndex s.cfg s.lidx.toNat s.arg0.toNat - s.lidx.toNat) % 2 = 1 := by
      unfold IsNextIndex at hnext
      split at hnext
      · omega
      · omega
    have hparity : decide (nextIndex s.cfg s.lidx.toNat s.arg0.toNat % 2 = 1) = !s.parity := by
      rw [hs.parity, lowBit_eq_odd]
      grind
    simp only [hlidx]
    refine ⟨hodd.1, hodd.2, hparity, fun hpolicy => ?_, fun hpolicy => ?_⟩
    · rw [hpolicy] at hnext
      exact hnext
    · rw [hpolicy] at hnext
      obtain ⟨_, _, hle, hge⟩ := hnext
      omega

/-- Settles O40: the check of ADV, which holds again after the ADV that sets DONE. -/
theorem advStopsAtTheEndOfTheVideo : Obligations.AdvStopsAtTheEndOfTheVideo := by
  refine ⟨fun s h => exec_adv_stopped h, fun s t hstarted hdone he hend => ?_⟩
  obtain ⟨hstopped, _⟩ | ⟨_, _, _, rfl⟩ | ⟨_, _, _, rfl⟩ := exec_adv he
  · simp [hstarted, hdone] at hstopped
  · exact ⟨rfl, rfl, exec_adv_stopped (.inr rfl)⟩
  · rw [hdone] at hend
    cases hend

/-! ## The synchronizer and SEED -/

/-- Settles O41: the whole of SWAPREQ. -/
theorem swapreqOnlyStagesTheSwap : Obligations.SwapreqOnlyStagesTheSwap :=
  fun _ => rfl

/-- Settles O43: the check of INTCTL passes in each of the three cases. -/
theorem intctlWritesTheEnables : Obligations.IntctlWritesTheEnables := by
  intro g v h s hok
  have hcheck : ¬ ((g && (v || h) && !s.seeded) = true) := by
    simp only [Bool.and_eq_true, Bool.or_eq_true, Bool.not_eq_true']
    rintro ⟨⟨rfl, hservice⟩, hunseeded⟩
    simp_all
  rw [exec, execIntctl, if_neg hcheck]

/-- Settles O44: the check of INTCTL fails. -/
theorem intctlRefusesAnUnseededService : Obligations.IntctlRefusesAnUnseededService := by
  intro v h s hservice hunseeded
  refine ⟨_, ?_, raiseError_recordsError .unseeded s⟩
  rw [exec, execIntctl, if_pos (by simpa [hunseeded] using hservice)]

/-- The check of SEED is the condition of R121 on buffers of P_NUM_STRIPS strips. -/
theorem seedFits_iff (s : State) : buffersFit s.arg0 s.arg1 s.cfg.bufferBytes = true
    ↔ BuffersFit s.arg0.toNat s.arg1.toNat (s.cfg.numStrips * s.cfg.stripStride) :=
  buffersFit_iff _ _ _

/-- Settles O23: the check of SEED is the condition of R121. -/
theorem seedInstallsBothBuffers : Obligations.SeedInstallsBothBuffers := by
  intro s hgie hfit
  rw [exec, execSeed, if_neg (by simp [hgie]), if_pos ((seedFits_iff s).mpr hfit)]
  rfl

/-- Settles O24: GIE is checked before the buffers. -/
theorem seedRaisesLiveBeforeBuf : Obligations.SeedRaisesLiveBeforeBuf := by
  intro s
  refine ⟨fun hgie => ⟨_, ?_, raiseError_recordsError .live s⟩,
    fun hgie hfit => ⟨_, ?_, raiseError_recordsError .buf s⟩⟩
  · rw [exec, execSeed, if_pos hgie]
  · rw [exec, execSeed, if_neg (by simp [hgie]), if_neg (mt (seedFits_iff s).mp hfit)]

end Sys2Proof.Proofs
end
